-- ==== Sys2Proof/Word.lean ====
section
/-! DEFINITION. The word types of the block's registers and ports, and the names small enough to be shared by every
layer: the two kinds of acknowledgement and the only parity the block asks for. Widths: spec/10_state.md R22 to R35,
spec/30_encoding.md R84 and R85. -/

namespace Sys2Proof

/-- One byte: a frame field, a byte operand, a buffer cell. -/
abbrev Byte := BitVec 8

/-- A length or capacity of the command port and the length registers, 0..511 (30_encoding.md R84). -/
abbrev Len := BitVec 9

/-- A sequence number register, 0..15 (10_state.md R24, R25). -/
abbrev SeqNum := BitVec 4

/-- An operational counter, CNT_W = 32 bits, wrapping (10_state.md R26; D30). -/
abbrev Count := BitVec 32

/-- A time value: a natural in TIME_UNIT, with no wrap (42_timer.md R163, 70_reset_and_hazards.md R258). -/
abbrev Time := Nat

/-- The two kinds of acknowledgement frame (43_arq.md R173). -/
inductive AckKind where
  | pos
  | neg
  deriving DecidableEq, Repr

/-- The parity the block passes to the transport at open: always none (00_scope.md R5). -/
inductive Parity where
  | none
  deriving DecidableEq, Repr

end Sys2Proof
end

