-- ==== Sys2Proof/Config.lean ====
section
/-! DEFINITION. The constants of spec/00_scope.md R5, the parameters of R6 with the validity rule R7, the records that
cross the block's ports (spec/30_encoding.md R84, R86), and the free values: what the environment answers where no
script says so. -/

namespace Sys2Proof

/-! ## Constants (R5) and decided parameters (R6) -/

/-- `CS_MOD`, the checksum modulus. -/
def csMod : Nat := 250

/-- `MAX_PAYLOAD`, the largest payload in bytes. -/
def maxPayload : Nat := 253

/-- `HDR_LEN`: marker, size and seqNum. -/
def hdrLen : Nat := 3

/-- `ACK_LEN`, the length of an acknowledgement frame. -/
def ackLen : Nat := 5

/-- `SIZE_OVERHEAD`: size = payload length + 2. -/
def sizeOverhead : Nat := 2

/-- `FRAME_OVERHEAD`: frame length = payload length + 4. -/
def frameOverhead : Nat := 4

/-- `MAX_FRAME`, the size of `txf` and `rxf` (R5, 20_memory.md R60). -/
def maxFrame : Nat := 257

/-- `DATA_BITS`, passed to the transport at open. -/
def dataBits : Nat := 8

/-- `RX_FRAME_MAX`, the maxSize the engine passes to the locate procedure (R6, D47). -/
def rxFrameMax : Len := 257#9

/-! ## Parameters (R6) and valid configurations (R7) -/

/-- The parameters of R6 that the spec leaves open. The Lean default of each field only shows that a valid
configuration exists (so that `Config.platform` can be declared); nothing about `platform` follows from it. The four
values passed through to the transport are opaque to the block (D14): a natural stands for each (DESIGN CHOICE, log
entry 13, safe). -/
structure Params where
  /-- `MARKER`, the frame-start byte. -/
  marker : Byte := 0
  /-- `STATUS_ACK`. -/
  statusAck : Byte := 1
  /-- `STATUS_NAK`. -/
  statusNak : Byte := 0
  /-- `MAX_TRIES`, attempts per reliable operation and per RECV_BASIC. -/
  maxTries : Nat := 1
  /-- `TX_WAIT`, half the response wait of SEND_RELIABLE. -/
  txWait : Time := 0
  /-- `RX_WAIT`, the frame wait of each receive attempt. -/
  rxWait : Time := 0
  /-- `MAX_BLOCK`, the largest payload SEND_BASIC and SEND_RELIABLE accept. -/
  maxBlock : Nat := 0
  /-- `OPT_BLOCK`, what GET_OPT_BLOCK returns. -/
  optBlock : Nat := 0
  /-- `CORRUPT_SENTINEL`, what RECV_BASIC returns for a corrupted frame. -/
  corruptSentinel : List Byte := []
  /-- `OPEN_BITRATE`. -/
  openBitrate : Nat := 0
  /-- `RX_TO_CONST`. -/
  rxToConst : Nat := 0
  /-- `RX_TO_INTV`. -/
  rxToIntv : Nat := 0
  /-- `ERR_PROB`. -/
  errProb : Nat := 0
  deriving DecidableEq, Repr

/-- R7: the five conditions of a valid configuration. -/
def Params.isValid (p : Params) : Bool :=
  p.statusAck != p.statusNak && decide (1 ≤ p.maxTries) && decide (p.maxBlock ≤ 253)
    && decide (p.optBlock ≤ p.maxBlock) && decide (p.corruptSentinel.length ≤ 253)

/-- A configuration: parameters with the proof that R7 holds of them, so that a model of the block can be built for no
other. -/
structure Config extends Params where
  valid : toParams.isValid = true := by decide
  deriving DecidableEq, Repr, Inhabited

/-- R7: "A model refuses any other configuration." -/
def Config.ofParams? (p : Params) : Option Config :=
  if h : p.isValid = true then some { toParams := p, valid := h } else none

/-! ## The command record (R84) -/

/-- One command as the host presents it on the command port (30_encoding.md R84). -/
structure Command where
  /-- the opcode -/
  op : Byte
  /-- first byte operand -/
  a : Byte := 0
  /-- second byte operand -/
  b : Byte := 0
  /-- length of the data operand -/
  n : Len := 0
  /-- capacity or maxSize operand -/
  c : Len := 0
  /-- time operand -/
  t : Time := 0
  /-- data operand, `n` bytes -/
  d : List Byte := []
  deriving DecidableEq, Repr

/-! ## The transport ports (R86) -/

/-- The answer to `RxRead()`. -/
inductive RxAnswer where
  /-- one byte of the receive stream, consumed by this read -/
  | byte (b : Byte)
  /-- the transport's own receive timeout ran out with no byte -/
  | empty
  /-- the transport failed, with its code -/
  | err (x : Int)
  deriving DecidableEq, Repr, Inhabited

/-- The answer to `TxWrite(bytes, L)`. -/
inductive TxAnswer where
  /-- `k` bytes were taken; the transport's duty is `k ≤ L` -/
  | count (k : Nat)
  /-- the transport failed, with its code -/
  | err (x : Int)
  deriving DecidableEq, Repr, Inhabited

/-- The answer to `XOpen` or `XClose`. -/
inductive CtrlAnswer where
  | ok
  /-- the transport failed, with its code -/
  | err (x : Int)
  deriving DecidableEq, Repr, Inhabited

/-- What `XOpen(ch)` sends with the channel id (R86). -/
structure OpenRequest where
  channel : Byte
  bitRate : Nat
  dataBits : Nat
  parity : Parity
  rxToConst : Nat
  rxToIntv : Nat
  errProb : Nat
  deriving DecidableEq, Repr

/-- One request the block issues at a port: the five environment primitives of 00_scope.md R10. -/
inductive Request where
  /-- `TxWrite(bytes, len(bytes))` -/
  | txWrite (bytes : List Byte)
  /-- `RxRead()` -/
  | rxRead
  /-- `XOpen(ch)` -/
  | xOpen (o : OpenRequest)
  /-- `XClose()` -/
  | xClose
  /-- `Now()` -/
  | now
  deriving DecidableEq, Repr

/-! ## Free values

Each is an opaque constant: no proof can see a value of it (93_implementation_defined.md U1 to U5, U8, U9, U11; log
entries 2 and 3; safe). A use applies it to the counter `env.draws`, which advances at each use. -/

/-- The configuration the platform fixed for this block. -/
opaque Config.platform : Config

/-- What the RX port answers where the script has ended. -/
opaque Config.freeRx : Nat → RxAnswer

/-- What the TX port answers where the script has ended (a count above the length asked for is read as that length, so
that the answer keeps the transport's duty). -/
opaque Config.freeTx : Nat → TxAnswer

/-- What the CTRL port answers where the script has ended. -/
opaque Config.freeCtrl : Nat → CtrlAnswer

/-- By how much time has advanced since the last reading where the script has ended. -/
opaque Config.freeTick : Nat → Time

end Sys2Proof
end

