-- ==== Sys2Proof/Syntax.lean ====
section
/-! DEFINITION. The commands of the block, one constructor for each row of spec/opcode_table.json, with exactly the
operand fields that spec/30_encoding.md R87 says the command reads. `n` is the length field and `d` the data bytes the
command reads, `d[0..n-1]`. -/

namespace Sys2Proof

/-- A command of the block. -/
inductive Instr where
  /-- CS_COMPUTE, 40_checksum.md R113: `a` = seqNum, `b` = frameSize, payload. -/
  | csCompute (a b : Byte) (n : Len) (d : List Byte)
  /-- CS_VERIFY, 40_checksum.md R114: a frame of length `n`. -/
  | csVerify (n : Len) (d : List Byte)
  /-- ENCODE, 41_frame_codec.md R131: `a` = seqNum, payload. -/
  | encode (a : Byte) (n : Len) (d : List Byte)
  /-- DECODE, 41_frame_codec.md R135: a frame of length `n`, `c` = capacity. -/
  | decode (n : Len) (d : List Byte) (c : Len)
  /-- LOCATE, 41_frame_codec.md R136: `c` = maxSize, `t` = timeLimit. -/
  | locate (c : Len) (t : Time)
  /-- SET_DEADLINE, 42_timer.md R161. -/
  | setDeadline (t : Time)
  /-- IS_ELAPSED, 42_timer.md R162. -/
  | isElapsed
  /-- CONNECT, 43_arq.md R171: `a` = channelId. -/
  | connect (a : Byte)
  /-- DISCONNECT, 43_arq.md R172. -/
  | disconnect
  /-- SEND_BASIC, 43_arq.md R175: payload. -/
  | sendBasic (n : Len) (d : List Byte)
  /-- SEND_RELIABLE, 43_arq.md R176: payload. -/
  | sendReliable (n : Len) (d : List Byte)
  /-- RECV_BASIC, 43_arq.md R177: `c` = maxPayload. -/
  | recvBasic (c : Len)
  /-- RECV_RELIABLE, 43_arq.md R178: `c` = maxPayload. -/
  | recvReliable (c : Len)
  /-- SEND_ACK, 43_arq.md R174: `a` = seqNum, and the kind that `b[0]` names. -/
  | sendAck (a : Byte) (kind : AckKind)
  /-- GET_OPT_BLOCK, 43_arq.md R179. -/
  | getOptBlock
  deriving DecidableEq, Repr

end Sys2Proof
end

