-- ==== Sys2Proof/WellFormed.lean ====
section
/-! DEFINITION. Which terms of `Instr` are commands a host can present: the data operand has the `n` bytes that
spec/30_encoding.md R84 gives it. Where `n > 257` the command answers BAD_OPERAND on `n` alone (R90), so the bytes may
be fewer there; never more. Every other field takes every value (R90, R91). -/

namespace Sys2Proof

/-- R84: `d` is `n` bytes (only at most `n` where R90 refuses `n`). -/
def dataWf (n : Len) (d : List Byte) : Bool :=
  decide (d.length ≤ n.toNat) && (decide (257 < n.toNat) || decide (n.toNat ≤ d.length))

/-- The well-formed commands. -/
def Instr.wf : Instr → Bool
  | .csCompute _ _ n d => dataWf n d
  | .csVerify n d => dataWf n d
  | .encode _ n d => dataWf n d
  | .decode n d _ => dataWf n d
  | .locate _ _ => true
  | .setDeadline _ => true
  | .isElapsed => true
  | .connect _ => true
  | .disconnect => true
  | .sendBasic n d => dataWf n d
  | .sendReliable n d => dataWf n d
  | .recvBasic _ => true
  | .recvReliable _ => true
  | .sendAck _ _ => true
  | .getOptBlock => true

end Sys2Proof
end

