-- ==== Sys2Proof/Decode.lean ====
section
/-! DEFINITION. From a command record to a command, and back. Decoding is total on every record: a command is selected
by `op` alone, compared on all 8 bits (spec/30_encoding.md R87), and every operand is taken from its field unchanged
(R91). What is not a command is rejected by name. After the decoder stands the encoder, written from the same table. -/

namespace Sys2Proof

/-- Why a record is not a command of the table. -/
inductive DecodeError where
  /-- `op` is 0x00 or 0x10 to 0xFF (R89): the block answers ILLEGAL_OPCODE. -/
  | illegalOpcode (op : Byte)
  /-- The record has fewer data bytes than the `n ≤ 257` it says (R84 gives `d` `n` bytes): no such record exists on
  the port. -/
  | shortData (n : Len) (present : Nat)
  deriving DecidableEq, Repr

/-- R91: "A payload or frame is `d[0..n-1]`". Bytes beyond are ignored (R89). -/
def dataField (c : Command) : Except DecodeError (List Byte) :=
  if c.n.toNat ≤ 257 ∧ c.d.length < c.n.toNat then .error (.shortData c.n c.d.length)
  else .ok (c.d.take c.n.toNat)

/-- R174: the acknowledgement kind is `b[0]`, 1 = positive, 0 = negative; `b[7:1]` is ignored. -/
def kindField (b : Byte) : AckKind := if b.getLsbD 0 then .pos else .neg

/-- R87: the command a record presents. -/
def decodeCommand (c : Command) : Except DecodeError Instr :=
  match c.op.toNat with
  | 0x01 => (dataField c).map fun d => .csCompute c.a c.b c.n d
  | 0x02 => (dataField c).map fun d => .csVerify c.n d
  | 0x03 => (dataField c).map fun d => .encode c.a c.n d
  | 0x04 => (dataField c).map fun d => .decode c.n d c.c
  | 0x05 => .ok (.locate c.c c.t)
  | 0x06 => .ok (.setDeadline c.t)
  | 0x07 => .ok .isElapsed
  | 0x08 => .ok (.connect c.a)
  | 0x09 => .ok .disconnect
  | 0x0A => (dataField c).map fun d => .sendBasic c.n d
  | 0x0B => (dataField c).map fun d => .sendReliable c.n d
  | 0x0C => .ok (.recvBasic c.c)
  | 0x0D => .ok (.recvReliable c.c)
  | 0x0E => .ok (.sendAck c.a (kindField c.b))
  | 0x0F => .ok .getOptBlock
  | _ => .error (.illegalOpcode c.op)

/-- R174: the `b` operand of a kind, with the ignored bits zero, as the pseudo-commands of R93 write it. -/
def kindByte : AckKind → Byte
  | .pos => 0x01#8
  | .neg => 0x00#8

/-- R87: the record of a command; the fields it does not read are zero, as the assembler of R92 leaves them. -/
def encodeInstr : Instr → Command
  | .csCompute a b n d => { op := 0x01#8, a := a, b := b, n := n, d := d }
  | .csVerify n d => { op := 0x02#8, n := n, d := d }
  | .encode a n d => { op := 0x03#8, a := a, n := n, d := d }
  | .decode n d c => { op := 0x04#8, n := n, c := c, d := d }
  | .locate c t => { op := 0x05#8, c := c, t := t }
  | .setDeadline t => { op := 0x06#8, t := t }
  | .isElapsed => { op := 0x07#8 }
  | .connect a => { op := 0x08#8, a := a }
  | .disconnect => { op := 0x09#8 }
  | .sendBasic n d => { op := 0x0A#8, n := n, d := d }
  | .sendReliable n d => { op := 0x0B#8, n := n, d := d }
  | .recvBasic c => { op := 0x0C#8, c := c }
  | .recvReliable c => { op := 0x0D#8, c := c }
  | .sendAck a k => { op := 0x0E#8, a := a, b := kindByte k }
  | .getOptBlock => { op := 0x0F#8 }

/-- The record whose bits are `w` as spec/opcode_table.json numbers them: the table gives a row the 8 bits of `op` and
no bits to the other fields, so every other field is zero (DESIGN CHOICE, log entry 7). -/
def commandOfTableWord (nbits w : Nat) : Command :=
  { op := BitVec.ofNat 8 (w % 2 ^ nbits) }

/-- The command the decoder reads from the table's word; `none` where it rejects. -/
def decodeTableWord (nbits w : Nat) : Option Instr :=
  match decodeCommand (commandOfTableWord nbits w) with
  | .ok i => some i
  | .error _ => none

end Sys2Proof
end

