-- ==== Sys2Proof/Machine/State.lean ====
section
/-! DEFINITION. The state of the block as plain data: every register and buffer of spec/10_state.md R22 to R35, beside
it the configuration it was built for and the environment it is connected to, the reasons a step can stop, and the
state right after reset (R39). -/

namespace Sys2Proof.Machine

/-! ## Buffers (R29 to R31, 20_memory.md R60) -/

/-- The contents of one buffer: its written bytes by offset. An unlisted offset has never been written and reads as
nothing (R40; log entry 4, safe). The canonical form is `Memory.wf`. -/
abbrev Memory := List Host.Cell

/-- The three buffers, each an address space of its own. -/
inductive BufName where
  /-- the transmit frame buffer, 257 bytes -/
  | txf
  /-- the receive frame buffer, 257 bytes -/
  | rxf
  /-- the acknowledgement frame buffer, 5 bytes -/
  | akf
  deriving DecidableEq, Repr

/-- 20_memory.md R60: the sizes of the buffers. -/
def BufName.size : BufName → Nat
  | .txf => 257
  | .rxf => 257
  | .akf => 5

/-- The offsets rise strictly from `lo` and stay below `size`. -/
def Memory.risingFrom (lo size : Nat) : Memory → Bool
  | [] => true
  | (a, _) :: m => decide (lo ≤ a) && decide (a < size) && Memory.risingFrom (a + 1) size m

/-- The canonical form of a buffer's contents: offsets strictly rising, all inside the buffer. -/
def Memory.wf (size : Nat) (m : Memory) : Bool := Memory.risingFrom 0 size m

/-! ## Connection state (R23, R26) -/

/-- R23: `phase`. -/
inductive Phase where
  | disconnected
  | connected
  deriving DecidableEq, Repr

/-- The names of the eight operational counters (R26). -/
inductive Counter where
  | framesSent
  | acksSent
  | naksSent
  | acksRcvd
  | naksRcvd
  | goodRcvd
  | badRcvd
  | timeouts
  deriving DecidableEq, Repr

/-- R26: the eight operational counters. -/
structure Counters where
  framesSent : Count := 0
  acksSent : Count := 0
  naksSent : Count := 0
  acksRcvd : Count := 0
  naksRcvd : Count := 0
  goodRcvd : Count := 0
  badRcvd : Count := 0
  timeouts : Count := 0
  deriving DecidableEq, Repr

/-! ## The response (R35, 30_encoding.md R85, R88) -/

/-- 30_encoding.md R88: the outcome of a command; no other code is ever produced. The codes are `Status.code`. -/
inductive Status where
  | ok
  | notConnected
  | payloadTooLarge
  | transportError
  | timeout
  | incomplete
  | giveUp
  | alreadyConnected
  | frameLength
  | badOperand
  | illegalOpcode
  deriving DecidableEq, Repr

/-- The record DISCONNECT returns (43_arq.md R172). -/
structure Report where
  duration : Time := 0
  framesSent : Count := 0
  goodRcvd : Count := 0
  badRcvd : Count := 0
  timeouts : Count := 0
  acksSent : Count := 0
  naksSent : Count := 0
  acksRcvd : Count := 0
  naksRcvd : Count := 0
  deriving DecidableEq, Repr

/-- The response register set; a field a command does not name is zero, or the empty string (R35). -/
structure Response where
  status : Status := .ok
  v : Byte := 0
  n : Len := 0
  d : List Byte := []
  t : Time := 0
  x : Int := 0
  report : Report := {}
  deriving DecidableEq, Repr

/-! ## The controller (R22) -/

/-- The position `k` of BUSY(op, k): the environment primitive the command waits on, with the local variables of its
pseudocode that are still needed after it ("a model may represent `k` as any continuation", R22). -/
inductive Point where
  /-- SET_DEADLINE waits on `Now()` (42_timer.md R161) -/
  | deadlineNow
  /-- IS_ELAPSED waits on `Now()` (42_timer.md R162) -/
  | elapsedNow
  /-- CONNECT waits on `XOpen` (43_arq.md R171) -/
  | xOpen
  /-- CONNECT waits on `Now()` for `conn_start` -/
  | connectNow
  /-- DISCONNECT waits on `XClose` (43_arq.md R172) -/
  | xClose
  /-- DISCONNECT waits on `Now()`, holding the answer `XClose` gave -/
  | disconnectNow (r : CtrlAnswer)
  /-- SEND_BASIC or SEND_RELIABLE waits on the `TxWrite` of its data frame (43_arq.md R175, R176) -/
  | frameWrite
  /-- SEND_ACK, or a NAK of RECV_RELIABLE, waits on the `TxWrite` of `akf` (43_arq.md R173) -/
  | ackWrite
  /-- RECV_RELIABLE waits on the `TxWrite` of the ACK for the frame it accepts, holding `seq` and `p` (43_arq.md R178) -/
  | acceptWrite (seq : Byte) (p : List Byte)
  /-- the locate procedure waits on the `Now()` of its deadline (41_frame_codec.md R133) -/
  | locateNow
  /-- HUNT waits on `RxRead()` -/
  | huntRead
  /-- HUNT waits on the `Now()` of its deadline test -/
  | huntNow
  /-- SIZE waits on `RxRead()` -/
  | sizeRead
  /-- SIZE waits on the `Now()` of its deadline test -/
  | sizeNow
  /-- BODY waits on `RxRead()` -/
  | bodyRead
  /-- BODY waits on the `Now()` of its deadline test -/
  | bodyNow
  deriving DecidableEq, Repr

/-- R22: the controller micro-state. A running command keeps the operands it latched (30_encoding.md R94). -/
inductive UState where
  /-- no command is running -/
  | idle
  /-- command `i` is running and waits at `k` -/
  | busy (i : Instr) (k : Point)
  deriving DecidableEq, Repr

/-! ## The environment (R21, 00_scope.md R10, R11): the model's own fields -/

/-- What the block is connected to. Each list holds what the environment will present or answer, in order; where an
answer list has ended the answer is a free value (log entries 1 and 2). -/
structure Env where
  /-- the command records the host will present (30_encoding.md R84) -/
  cmds : List Command := []
  /-- the responses the host has taken, oldest first -/
  taken : List Response := []
  /-- the level of the reset input at the coming steps; not asserted once the list has ended -/
  rst : List Bool := []
  /-- answers to the coming `RxRead`s -/
  rx : List RxAnswer := []
  /-- answers to the coming `TxWrite`s -/
  tx : List TxAnswer := []
  /-- answers to the coming `XOpen`s and `XClose`s -/
  ctrl : List CtrlAnswer := []
  /-- the value the last `Now()` returned -/
  now : Time := 0
  /-- by how much time will have advanced at each coming `Now()`: never a step back (R10) -/
  ticks : List Time := []
  /-- how many free values have been drawn -/
  draws : Nat := 0
  /-- the requests issued at the ports, oldest first -/
  log : List Request := []
  deriving DecidableEq, Repr

/-! ## The state -/

/-- The block (R22 to R35), its configuration (00_scope.md R5 to R7) and its environment. -/
structure State where
  /-- the configuration: no step writes it -/
  cfg : Config
  /-- the controller micro-state, R22 -/
  ustate : UState := .idle
  /-- R23 -/
  phase : Phase := .disconnected
  /-- `tx_seq`: the sequence number of the next data frame sent, R24 -/
  txSeq : SeqNum := 0
  /-- `rx_last`: the last accepted sequence number, R25 -/
  rxLast : SeqNum := 15
  /-- the operational counters, R26 -/
  ctr : Counters := {}
  /-- `conn_start`, R27 -/
  connStart : Time := 0
  /-- the deadline register, R28 -/
  dl : Time := 0
  /-- the transmit frame buffer, R29 -/
  txf : Memory := []
  /-- `txf_len`, R29 -/
  txfLen : Len := 0
  /-- the receive frame buffer, R30 -/
  rxf : Memory := []
  /-- `rxf_len`, R30 -/
  rxfLen : Len := 0
  /-- the acknowledgement frame buffer, R31 -/
  akf : Memory := []
  /-- the checksum accumulator, R32 -/
  csAcc : Byte := 0
  /-- `loc_need`: the size byte that was read, R33 -/
  locNeed : Byte := 0
  /-- `loc_cnt`: the number of body bytes received so far, R33 -/
  locCnt : Len := 0
  /-- `loc_max`: the maxSize argument, R33 -/
  locMax : Len := 0
  /-- the attempt counter of the running retry loop, R34 -/
  tries : Nat := 0
  /-- the expected sequence number RECV_RELIABLE latched, R34 -/
  expected : SeqNum := 0
  /-- the response registers, R35 -/
  rsp : Response := {}
  /-- a response has been sent and the host has not taken it yet (R39, 60_exceptions.md R225) -/
  rspPending : Bool := false
  /-- the environment, R21 -/
  env : Env := {}
  deriving DecidableEq, Repr

/-- R39: the block right after reset, for a given configuration and environment. -/
def State.resetFor (cfg : Config) (env : Env) : State :=
  { cfg := cfg
    ustate := .idle
    phase := .disconnected
    txSeq := 0
    rxLast := 15
    ctr := {}
    connStart := 0
    dl := 0
    txf := []
    txfLen := 0
    rxf := []
    rxfLen := 0
    akf := []
    csAcc := 0
    locNeed := 0
    locCnt := 0
    locMax := 0
    tries := 0
    expected := 0
    rsp := {}
    rspPending := false
    env := env }

/-- The machine right after reset: the platform's configuration, and an environment that has presented nothing and
answered nothing yet. -/
def State.reset : State := State.resetFor Config.platform {}

/-! ## Why a step can stop -/

/-- The stuck states. -/
inductive Fault where
  /-- Raised by a command's meaning when another command is running: "the host has no move on the command port"
  (30_encoding.md R94; 93_implementation_defined.md I2, `stuck`). `step` never raises it. Safe. -/
  | portBusy
  /-- Raised by a `TxWrite` whose scripted answer counts more bytes than were offered: "A transport that breaks one of
  these has no move in the model" (30_encoding.md R86; 93 U8, `stuck`). Safe. -/
  | transportOvercount (k len : Nat)
  /-- Raised by a read of a buffer byte that nothing has written since reset (R40: "a model may ... treat a read of one
  as a fault. That fault never fires under these rules"). Safe. -/
  | unwrittenByte (b : BufName) (i : Nat)
  /-- Raised by an access to an offset the buffer does not have (20_memory.md R60, R64: never under these rules). Safe. -/
  | outsideBuffer (b : BufName) (i : Nat)
  /-- Raised by a command's meaning at a control position that is not one of its own (R22: no run reaches one). Safe. -/
  | strayPoint
  deriving DecidableEq, Repr

/-- What a step does not run. -/
inductive Refusal where
  /-- Raised by `exec` for an instruction that has no meaning yet; none is left. Safe. -/
  | notModelled (mnemonic : String)
  /-- Raised by `step` when the record at the command port has fewer data bytes than its `n ≤ 257` says: 30_encoding.md
  R84 gives `d` `n` bytes, so the port cannot carry such a record (log entry 10). Safe. -/
  | malformedCommand
  deriving DecidableEq, Repr

end Sys2Proof.Machine
end

