-- ==== Sys2Proof/Machine/Operands.lean ====
section
/-! DEFINITION. The operand forms and the arithmetic of the datapath, as pure functions: the checksum
(spec/40_checksum.md R110), the frame layouts (spec/30_encoding.md R80, R82), the zero extension and the successor of
sequence numbers (R91, spec/10_state.md R24), truncation to a capacity, and the status codes (R88). -/

namespace Sys2Proof.Machine

/-! ## Sequence numbers -/

/-- R91: `zext_8` of a 4-bit sequence register. -/
def zext8 (s : SeqNum) : Byte := s.setWidth 8

/-- R24, R25: `(s + 1) mod 16`. -/
def nextSeq (s : SeqNum) : SeqNum := s + 1

/-- 43_arq.md R178: `seq[3:0]`. -/
def lowSeq (b : Byte) : SeqNum := b.setWidth 4

/-! ## The checksum -/

/-- R110: one accumulation, `(cs_acc + b) mod 250`; the intermediate sum is exact. -/
def csAdd (acc b : Byte) : Byte := BitVec.ofNat 8 ((acc.toNat + b.toNat) % csMod)

/-- The running residue of a byte string, from `acc`. -/
def csFold (acc : Byte) (bytes : List Byte) : Byte := bytes.foldl csAdd acc

/-- R110: `Checksum(size, seq, p)`. -/
def checksumOf (size seq : Byte) (p : List Byte) : Byte := csFold 0 (size :: seq :: p)

/-! ## Frames -/

/-- R80: the size byte of a payload, `len(payload) + 2`. -/
def sizeByte (p : List Byte) : Byte := BitVec.ofNat 8 (p.length + sizeOverhead)

/-- R80: the frame of payload `p` with sequence byte `s`. -/
def frameBytes (marker s : Byte) (p : List Byte) : List Byte :=
  marker :: sizeByte p :: s :: (p ++ [checksumOf (sizeByte p) s p])

/-- R173: the status byte of an acknowledgement kind. -/
def statusByte (cfg : Config) : AckKind → Byte
  | .pos => cfg.statusAck
  | .neg => cfg.statusNak

/-- R82: the acknowledgement frame for sequence byte `s`. -/
def ackBytes (cfg : Config) (kind : AckKind) (s : Byte) : List Byte :=
  [cfg.marker, 0x03#8, s, statusByte cfg kind, checksumOf 0x03#8 s [statusByte cfg kind]]

/-- R132: `take(p, cap)`. -/
def truncated (p : List Byte) (cap : Len) : List Byte := p.take cap.toNat

/-- The length field of a byte string in a response (R85). -/
def lenField (p : List Byte) : Len := BitVec.ofNat 9 p.length

/-! ## Status codes -/

/-- 30_encoding.md R88: the 8-bit code of a status. -/
def Status.code : Status → Byte
  | .ok => 0x00#8
  | .notConnected => 0x01#8
  | .payloadTooLarge => 0x02#8
  | .transportError => 0x03#8
  | .timeout => 0x04#8
  | .incomplete => 0x05#8
  | .giveUp => 0x06#8
  | .alreadyConnected => 0x07#8
  | .frameLength => 0x08#8
  | .badOperand => 0x09#8
  | .illegalOpcode => 0x0A#8

end Sys2Proof.Machine
end

