-- ==== Sys2Proof/Machine/Flags.lean ====
section
/-! DEFINITION. The single-bit results of the block (spec/10_state.md R38): the comparator output, the result bits of
`rsp.v`, the reading of an acknowledgement (spec/43_arq.md R176), and the counters' increments (R180). -/

namespace Sys2Proof.Machine

/-- 42_timer.md R160: the comparator output, `Now() >= dl`. -/
def elapsed (now dl : Time) : Bool := decide (dl ≤ now)

/-- R38: a result bit as `rsp.v` holds it. -/
def bitByte (b : Bool) : Byte := if b then 1 else 0

/-- R176: `len(st) == 1 and st[0] == STATUS_ACK`, for the status bytes of a response (at most one). -/
def positiveAck (cfg : Config) (st : List Byte) : Bool := st == [cfg.statusAck]

/-- R9: `inc(C)` on the counters. -/
def Counters.bump (c : Counters) : Counter → Counters
  | .framesSent => { c with framesSent := c.framesSent + 1 }
  | .acksSent => { c with acksSent := c.acksSent + 1 }
  | .naksSent => { c with naksSent := c.naksSent + 1 }
  | .acksRcvd => { c with acksRcvd := c.acksRcvd + 1 }
  | .naksRcvd => { c with naksRcvd := c.naksRcvd + 1 }
  | .goodRcvd => { c with goodRcvd := c.goodRcvd + 1 }
  | .badRcvd => { c with badRcvd := c.badRcvd + 1 }
  | .timeouts => { c with timeouts := c.timeouts + 1 }

/-- The value of a counter by name (R26). -/
def Counters.get (c : Counters) : Counter → Count
  | .framesSent => c.framesSent
  | .acksSent => c.acksSent
  | .naksSent => c.naksSent
  | .acksRcvd => c.acksRcvd
  | .naksRcvd => c.naksRcvd
  | .goodRcvd => c.goodRcvd
  | .badRcvd => c.badRcvd
  | .timeouts => c.timeouts

/-- R173: the counter a completed acknowledgement increments. -/
def sentCounter : AckKind → Counter
  | .pos => .acksSent
  | .neg => .naksSent

/-- R176: the counter a checksum-good response increments. -/
def rcvdCounter (positive : Bool) : Counter := if positive then .acksRcvd else .naksRcvd

/-- R172: the report of the counters and a duration. -/
def Counters.report (c : Counters) (duration : Time) : Report :=
  { duration := duration
    framesSent := c.framesSent
    goodRcvd := c.goodRcvd
    badRcvd := c.badRcvd
    timeouts := c.timeouts
    acksSent := c.acksSent
    naksSent := c.naksSent
    acksRcvd := c.acksRcvd
    naksRcvd := c.naksRcvd }

end Sys2Proof.Machine
end

