-- ==== Sys2Proof/Machine/Ops.lean ====
section
/-! DEFINITION. The named operations of the block: one setter for each register, the buffer accesses `MemRead` and
`MemWrite` (spec/00_scope.md R9), the environment primitives (R10), `respond` and `raise` (R9), the issue of a
primitive, acceptance, the host's taking of a response, and reset (spec/70_reset_and_hazards.md R250). -/

namespace Sys2Proof.Machine

/-- What a step answers. -/
abbrev Out := Host.Outcome State Fault Refusal

/-! ## Register writes -/

def State.setUstate (s : State) (u : UState) : State := { s with ustate := u }
def State.setPhase (s : State) (p : Phase) : State := { s with phase := p }
def State.setTxSeq (s : State) (q : SeqNum) : State := { s with txSeq := q }
def State.setRxLast (s : State) (q : SeqNum) : State := { s with rxLast := q }
def State.setCtr (s : State) (c : Counters) : State := { s with ctr := c }
def State.setConnStart (s : State) (t : Time) : State := { s with connStart := t }
def State.setDl (s : State) (t : Time) : State := { s with dl := t }
def State.setTxf (s : State) (m : Memory) : State := { s with txf := m }
def State.setTxfLen (s : State) (n : Len) : State := { s with txfLen := n }
def State.setRxf (s : State) (m : Memory) : State := { s with rxf := m }
def State.setRxfLen (s : State) (n : Len) : State := { s with rxfLen := n }
def State.setAkf (s : State) (m : Memory) : State := { s with akf := m }
def State.setCsAcc (s : State) (b : Byte) : State := { s with csAcc := b }
def State.setLocNeed (s : State) (b : Byte) : State := { s with locNeed := b }
def State.setLocCnt (s : State) (n : Len) : State := { s with locCnt := n }
def State.setLocMax (s : State) (n : Len) : State := { s with locMax := n }
def State.setTries (s : State) (n : Nat) : State := { s with tries := n }
def State.setExpected (s : State) (q : SeqNum) : State := { s with expected := q }
def State.setRsp (s : State) (r : Response) : State := { s with rsp := r }
def State.setRspPending (s : State) (b : Bool) : State := { s with rspPending := b }
def State.setEnv (s : State) (e : Env) : State := { s with env := e }

/-- R9: `inc(C)`. -/
def State.inc (s : State) (c : Counter) : State := s.setCtr (s.ctr.bump c)

/-! ## Buffers -/

/-- The byte at an offset; `none` where nothing was written (R40). -/
def Memory.get? : Memory → Nat → Option Byte
  | [], _ => none
  | (b, w) :: m, a => if a = b then some w else Memory.get? m a

/-- Set the byte at an offset, keeping the offsets in rising order. -/
def Memory.put : Memory → Nat → Byte → Memory
  | [], a, v => [(a, v)]
  | (b, w) :: m, a, v =>
    if a < b then (a, v) :: (b, w) :: m
    else if a = b then (a, v) :: m
    else (b, w) :: Memory.put m a v

/-- `MemRead(buf, i, 1)` on the contents `m` of buffer `b`. -/
def Memory.read (b : BufName) (m : Memory) (i : Nat) : Except Fault Byte :=
  if i < b.size then
    match m.get? i with
    | some v => .ok v
    | none => .error (.unwrittenByte b i)
  else .error (.outsideBuffer b i)

/-- `MemWrite(buf, i, 1, v)` on the contents `m` of buffer `b`. -/
def Memory.write (b : BufName) (m : Memory) (i : Nat) (v : Byte) : Except Fault Memory :=
  if i < b.size then .ok (m.put i v) else .error (.outsideBuffer b i)

/-- The `k` bytes from offset `i` up, `buf[i..i+k-1]`. -/
def Memory.readAll (b : BufName) (m : Memory) (i : Nat) : Nat → Except Fault (List Byte)
  | 0 => .ok []
  | k + 1 =>
    match Memory.read b m i with
    | .error f => .error f
    | .ok v => (Memory.readAll b m (i + 1) k).map (v :: ·)

/-- `buf[i] <- bytes[0]`, `buf[i+1] <- bytes[1]`, and so on. -/
def Memory.writeAll (b : BufName) (m : Memory) (i : Nat) : List Byte → Except Fault Memory
  | [] => .ok m
  | v :: vs =>
    match Memory.write b m i v with
    | .error f => .error f
    | .ok m' => Memory.writeAll b m' (i + 1) vs

/-- The contents of a buffer. -/
def State.buf (s : State) : BufName → Memory
  | .txf => s.txf
  | .rxf => s.rxf
  | .akf => s.akf

/-- Replace the contents of a buffer. -/
def State.setBuf (s : State) : BufName → Memory → State
  | .txf, m => s.setTxf m
  | .rxf, m => s.setRxf m
  | .akf, m => s.setAkf m

/-- `MemRead(buf, i, 1)`. -/
def State.memRead (s : State) (b : BufName) (i : Nat) : Except Fault Byte :=
  Memory.read b (s.buf b) i

/-- `MemWrite(buf, i, 1, v)`. -/
def State.memWrite (s : State) (b : BufName) (i : Nat) (v : Byte) : Except Fault State :=
  (Memory.write b (s.buf b) i v).map (s.setBuf b)

/-- `buf[i..i+k-1]`. -/
def State.memReadAll (s : State) (b : BufName) (i k : Nat) : Except Fault (List Byte) :=
  Memory.readAll b (s.buf b) i k

/-- A byte string into a buffer from offset `i`. -/
def State.memWriteAll (s : State) (b : BufName) (i : Nat) (bytes : List Byte) : Except Fault State :=
  (Memory.writeAll b (s.buf b) i bytes).map (s.setBuf b)

/-! ## The environment's answers (R10, 30_encoding.md R86) -/

/-- The answer to `RxRead()`: the next of the script, or a free value. -/
def Env.rxRead (e : Env) : RxAnswer × Env :=
  match e.rx with
  | a :: rest => (a, { e with rx := rest })
  | [] => (Config.freeRx e.draws, { e with draws := e.draws + 1 })

/-- The duty `k ≤ L` of a free answer (R86). -/
def dutiful (len : Nat) : TxAnswer → TxAnswer
  | .count k => .count (min k len)
  | .err x => .err x

/-- The answer to `TxWrite(bytes, len)`. A script that counts past `len` breaks the transport's duty: no move. -/
def Env.txWrite (e : Env) (len : Nat) : Except Fault (TxAnswer × Env) :=
  match e.tx with
  | .count k :: rest =>
    if k ≤ len then .ok (.count k, { e with tx := rest }) else .error (.transportOvercount k len)
  | .err x :: rest => .ok (.err x, { e with tx := rest })
  | [] => .ok (dutiful len (Config.freeTx e.draws), { e with draws := e.draws + 1 })

/-- The answer to `XOpen` or `XClose`. -/
def Env.ctrlAnswer (e : Env) : CtrlAnswer × Env :=
  match e.ctrl with
  | a :: rest => (a, { e with ctrl := rest })
  | [] => (Config.freeCtrl e.draws, { e with draws := e.draws + 1 })

/-- `Now()`: the time of the last reading and what has passed since, so never less (R10). -/
def Env.readNow (e : Env) : Time × Env :=
  match e.ticks with
  | dt :: rest => (e.now + dt, { e with now := e.now + dt, ticks := rest })
  | [] =>
    (e.now + Config.freeTick e.draws,
      { e with now := e.now + Config.freeTick e.draws, draws := e.draws + 1 })

/-- `RxRead()`. -/
def State.rxRead (s : State) : RxAnswer × State :=
  (s.env.rxRead.1, s.setEnv s.env.rxRead.2)

/-- The answer to the `TxWrite` of `len` bytes. -/
def State.txAnswer (s : State) (len : Nat) : Except Fault (TxAnswer × State) :=
  (s.env.txWrite len).map fun (a, e) => (a, s.setEnv e)

/-- The answer to `XOpen` or `XClose`. -/
def State.ctrlAnswer (s : State) : CtrlAnswer × State :=
  (s.env.ctrlAnswer.1, s.setEnv s.env.ctrlAnswer.2)

/-- `Now()`. -/
def State.readNow (s : State) : Time × State :=
  (s.env.readNow.1, s.setEnv s.env.readNow.2)

/-! ## Control -/

/-- Issue request `r` at its port and wait for its answer in BUSY(i, k) (R22, R68). -/
def State.issue (s : State) (i : Instr) (k : Point) (r : Request) : State :=
  (s.setEnv { s.env with log := s.env.log ++ [r] }).setUstate (.busy i k)

/-- R9: `respond`: send the response and return to IDLE. -/
def State.respond (s : State) (r : Response) : State :=
  ((s.setRsp r).setRspPending true).setUstate .idle

/-- R9: `raise <Status>()`: end the command at once. Nothing is undone (60_exceptions.md R220, R224). -/
def State.raise (s : State) (st : Status) : State := s.respond { status := st }

/-- `raise TRANSPORT_ERROR(x = x)`. -/
def State.raiseTransport (s : State) (x : Int) : State :=
  s.respond { status := .transportError, x := x }

/-- A command's meaning: start it from IDLE (R94; a host that presents a command has taken the last response,
60_exceptions.md R225), or go on from where it waits. Another command cannot be presented meanwhile. -/
def State.running (s : State) (i : Instr) (start : State → Out) (resume : Point → State → Out) : Out :=
  match s.ustate with
  | .idle => start (s.setRspPending false)
  | .busy j k => if j = i then resume k s else .fault .portBusy

/-- Go on with what an operation answers, or stop with its fault. -/
def orFault {α : Type} (x : Except Fault α) (go : α → Out) : Out :=
  match x with
  | .ok a => go a
  | .error f => .fault f

/-- The answer to the `TxWrite` of `len` bytes: `TRANSPORT_ERROR(x)`, `INCOMPLETE` for a short write, or go on
(43_arq.md R173 to R176; 90_conflicts.md C7). -/
def State.afterWrite (s : State) (len : Nat) (go : State → Out) : Out :=
  orFault (s.txAnswer len) fun
    | (.err x, s1) => .next (s1.raiseTransport x)
    | (.count k, s1) => if k < len then .next (s1.raise .incomplete) else go s1

/-! ## Checks before execution (60_exceptions.md R223) -/

/-- 30_encoding.md R90: `if n > 257: raise BAD_OPERAND()`. -/
def State.needOperand (s : State) (n : Len) (go : State → Out) : Out :=
  if 257 < n.toNat then .next (s.raise .badOperand) else go s

/-- 60_exceptions.md R222: `if phase != 1: raise NOT_CONNECTED()`. -/
def State.needConnected (s : State) (go : State → Out) : Out :=
  if s.phase = .connected then go s else .next (s.raise .notConnected)

/-- 43_arq.md R175, R176: `if n > MAX_BLOCK: raise PAYLOAD_TOO_LARGE()`. -/
def State.needBlock (s : State) (n : Len) (go : State → Out) : Out :=
  if s.cfg.maxBlock < n.toNat then .next (s.raise .payloadTooLarge) else go s

/-! ## The command port and reset -/

/-- The record the host presents has been read from the port. -/
def State.dropCommand (s : State) : State := s.setEnv { s.env with cmds := s.env.cmds.tail }

/-- The host takes the response, once per command (R35, 60_exceptions.md R225). -/
def State.takeResponse (s : State) : State :=
  (s.setEnv { s.env with taken := s.env.taken ++ [s.rsp] }).setRspPending false

/-- 30_encoding.md R89: an unassigned opcode is answered with ILLEGAL_OPCODE and changes nothing else. -/
def State.answerIllegal (s : State) : State := s.raise .illegalOpcode

/-- 70_reset_and_hazards.md R250, R251: every register takes its reset value; a running command is abandoned with no
response; the environment is untouched. -/
def State.applyReset (s : State) : State := State.resetFor s.cfg s.env

/-- The reset input's levels at the steps to come. -/
def State.setRst (s : State) (r : List Bool) : State := s.setEnv { s.env with rst := r }

/-- The state in which the host's next record is `c` and nothing keeps the block from accepting it: no command runs, no
response waits, reset is not asserted at the next step. -/
def State.present (s : State) (c : Command) : State :=
  ((s.setEnv { s.env with cmds := c :: s.env.cmds, rst := false :: s.env.rst }).setRspPending false).setUstate .idle

end Sys2Proof.Machine
end

