-- ==== Sys2Proof/Machine/Procedures.lean ====
section
/-! DEFINITION. The internal procedures the commands share: `Checksum` and `Verify` (spec/40_checksum.md R110, R111),
`Encode`, `Decode` and `Locate` (spec/41_frame_codec.md R130, R132, R133), `SendAck` (spec/43_arq.md R173) and the
retry loop's end of an attempt. -/

namespace Sys2Proof.Machine

/-! ## checksum_unit -/

/-- R110: `Checksum(size, seq, p)`: the result is left in `cs_acc`. -/
def State.checksum (s : State) (size seq : Byte) (p : List Byte) : Byte × State :=
  (checksumOf size seq p, s.setCsAcc (checksumOf size seq p))

/-- R111: `Verify(rxf, len)`; `true` is Good. -/
def State.verify (s : State) (len : Nat) : Except Fault (Bool × State) :=
  if len < 4 then .ok (false, s)
  else
    match s.memReadAll .rxf 1 (len - 2), s.memRead .rxf (len - 1) with
    | .error f, _ => .error f
    | _, .error f => .error f
    | .ok body, .ok c => .ok (csFold 0 body == c, s.setCsAcc (csFold 0 body))

/-! ## frame_codec -/

/-- R130: `Encode(p, seq)`: `none` is `TooLarge`, and then nothing is written. The frame length is left in `txf_len`. -/
def State.encode (s : State) (p : List Byte) (seq : Byte) : Except Fault (Option State) :=
  if maxPayload < p.length then .ok none
  else
    (((s.checksum (sizeByte p) seq p).2).memWriteAll .txf 0 (frameBytes s.cfg.marker seq p)).map
      fun s1 => some (s1.setTxfLen (BitVec.ofNat 9 (p.length + frameOverhead)))

/-- R132: `Decode(rxf, len, cap)`, for `len ≥ 4`: the payload and the sequence byte. It writes nothing. -/
def State.decode (s : State) (len : Nat) (cap : Len) : Except Fault (List Byte × Byte) :=
  match s.memRead .rxf 2, s.memReadAll .rxf 3 (len - frameOverhead) with
  | .error f, _ => .error f
  | _, .error f => .error f
  | .ok seq, .ok p => .ok (truncated p cap, seq)

/-- R30: a command's data operand is copied into `rxf` (R114, R135). -/
def State.loadRxf (s : State) (n : Len) (d : List Byte) : Except Fault State :=
  (s.memWriteAll .rxf 0 d).map fun s1 => s1.setRxfLen n

/-! ## Locate -/

/-- R133: what `Locate` returns. -/
inductive LocateResult where
  /-- a frame of this length stands in `rxf` -/
  | frame (len : Nat)
  /-- the deadline passed, or the size byte does not fit maxSize -/
  | noFrame
  /-- the transport failed -/
  | transportErr (x : Int)
  deriving DecidableEq, Repr

/-- One step of `Locate`: it waits on its next primitive, or it returns. -/
inductive LocateStep where
  | waits (s : State)
  | returns (r : LocateResult) (s : State)
  deriving DecidableEq, Repr

/-- `dl <- Now() + timeLimit; loc_max <- maxSize`, then the first read of HUNT. -/
def locateDeadline (i : Instr) (maxSize : Len) (limit : Time) (s : State) : LocateStep :=
  .waits (((s.readNow.2.setDl (s.readNow.1 + limit)).setLocMax maxSize).issue i .huntRead .rxRead)

/-- `if Now() >= dl: return NoFrame`, else go on. -/
def locateTest (s : State) (go : State → LocateStep) : LocateStep :=
  if elapsed s.readNow.1 s.readNow.2.dl then .returns .noFrame s.readNow.2 else go s.readNow.2

/-- R61, R133: the offset of `rxf` at which the byte read at `k` is stored: the i-th byte received, counting the marker
as byte 0. -/
def locateOffset (k : Point) (s : State) : Nat :=
  match k with
  | .huntRead => 0
  | .sizeRead => 1
  | _ => 2 + s.locCnt.toNat

/-- HUNT after its read: the marker ends it; anything else but an error tests the deadline. -/
def locateHunt (i : Instr) (s : State) : Except Fault LocateStep :=
  match s.rxRead with
  | (.err x, s1) => .ok (.returns (.transportErr x) s1)
  | (.empty, s1) => .ok (.waits (s1.issue i .huntNow .now))
  | (.byte b, s1) =>
    if b = s1.cfg.marker then
      (s1.memWrite .rxf (locateOffset .huntRead s1) b).map fun s2 => .waits (s2.issue i .sizeRead .rxRead)
    else .ok (.waits (s1.issue i .huntNow .now))

/-- BODY: `while loc_cnt < loc_need`, and what follows the loop. -/
def locateBody (i : Instr) (s : State) : LocateStep :=
  if s.locCnt.toNat < s.locNeed.toNat then .waits (s.issue i .bodyRead .rxRead)
  else .returns (.frame (2 + s.locNeed.toNat)) (s.setRxfLen (BitVec.ofNat 9 (2 + s.locNeed.toNat)))

/-- SIZE after its read: the size byte is stored, and tested against maxSize at once. -/
def locateSize (i : Instr) (s : State) : Except Fault LocateStep :=
  match s.rxRead with
  | (.err x, s1) => .ok (.returns (.transportErr x) s1)
  | (.empty, s1) => .ok (.waits (s1.issue i .sizeNow .now))
  | (.byte b, s1) =>
    ((s1.setLocNeed b).memWrite .rxf (locateOffset .sizeRead s1) b).map fun s2 =>
      if s2.locMax.toNat < 2 + b.toNat then .returns .noFrame s2
      else locateBody i (s2.setLocCnt 0)

/-- BODY after its read. -/
def locateByte (i : Instr) (s : State) : Except Fault LocateStep :=
  match s.rxRead with
  | (.err x, s1) => .ok (.returns (.transportErr x) s1)
  | (.empty, s1) => .ok (.waits (s1.issue i .bodyNow .now))
  | (.byte b, s1) =>
    (s1.memWrite .rxf (locateOffset .bodyRead s1) b).map fun s2 =>
      locateBody i (s2.setLocCnt (s2.locCnt + 1))

/-- R133: `Locate(maxSize, timeLimit)`, run on by command `i` from the point `k` it waits at. -/
def locateStep (i : Instr) (maxSize : Len) (limit : Time) (k : Point) (s : State) : Except Fault LocateStep :=
  match k with
  | .locateNow => .ok (locateDeadline i maxSize limit s)
  | .huntRead => locateHunt i s
  | .huntNow => .ok (locateTest s fun s1 => .waits (s1.issue i .huntRead .rxRead))
  | .sizeRead => locateSize i s
  | .sizeNow => .ok (locateTest s fun s1 => .waits (s1.issue i .sizeRead .rxRead))
  | .bodyRead => locateByte i s
  | .bodyNow => .ok (locateTest s (locateBody i))
  | _ => .error .strayPoint

/-- Call `Locate`: its first primitive is `Now()`. -/
def State.callLocate (s : State) (i : Instr) : State := s.issue i .locateNow .now

/-- Run `Locate` on, and when it returns go on with its result. -/
def State.runLocate (s : State) (i : Instr) (maxSize : Len) (limit : Time) (k : Point)
    (go : LocateResult → State → Out) : Out :=
  orFault (locateStep i maxSize limit k s) fun
    | .waits s1 => .next s1
    | .returns r s1 => go r s1

/-! ## SendAck -/

/-- R173 up to its `TxWrite`: the acknowledgement frame is built in `akf` and offered to the transport. -/
def State.callAck (s : State) (i : Instr) (k : Point) (kind : AckKind) (seq : Byte) : Except Fault State :=
  match ((s.checksum 0x03#8 seq [statusByte s.cfg kind]).2).memWriteAll .akf 0 (ackBytes s.cfg kind seq) with
  | .error f => .error f
  | .ok s1 => (s1.memReadAll .akf 0 ackLen).map fun bytes => s1.issue i k (.txWrite bytes)

/-- R173 after its `TxWrite`: a failure ends the command (43_arq.md R174, R178), a complete write is counted. -/
def State.afterAck (s : State) (kind : AckKind) (go : State → Out) : Out :=
  s.afterWrite ackLen fun s1 => go (s1.inc (sentCounter kind))

/-! ## Frames out and attempts -/

/-- R175, R176: offer the `txf_len` bytes of `txf` to the transport. -/
def State.callFrameWrite (s : State) (i : Instr) : Except Fault State :=
  (s.memReadAll .txf 0 s.txfLen.toNat).map fun bytes => s.issue i .frameWrite (.txWrite bytes)

/-- The end of an attempt of a `for tries in 1 .. MAX_TRIES` loop (R176 to R178): the next attempt, or `GIVE_UP`. -/
def State.nextAttempt (s : State) (attempt : State → Out) : Out :=
  if s.tries < s.cfg.maxTries then attempt (s.setTries (s.tries + 1)) else .next (s.raise .giveUp)

end Sys2Proof.Machine
end

