-- ==== Sys2Proof/Machine/Checksum.lean ====
section
/-! DEFINITION. The commands of checksum_unit, spec/40_checksum.md R113 and R114. They use no environment primitive. -/

namespace Sys2Proof.Machine

/-- R113 from acceptance. -/
def csComputeStart (a b : Byte) (n : Len) (d : List Byte) (s : State) : Out :=
  s.needOperand n fun s1 =>
    .next ((s1.checksum b a d).2.respond { v := (s1.checksum b a d).1 })

/-- CS_COMPUTE, R113. -/
def execCsCompute (a b : Byte) (n : Len) (d : List Byte) (s : State) : Out :=
  s.running (.csCompute a b n d) (csComputeStart a b n d) fun _ _ => .fault .strayPoint

/-- R114 from acceptance. -/
def csVerifyStart (n : Len) (d : List Byte) (s : State) : Out :=
  s.needOperand n fun s1 =>
    orFault (s1.loadRxf n d) fun s2 =>
      orFault (s2.verify n.toNat) fun (good, s3) => .next (s3.respond { v := bitByte good })

/-- CS_VERIFY, R114. -/
def execCsVerify (n : Len) (d : List Byte) (s : State) : Out :=
  s.running (.csVerify n d) (csVerifyStart n d) fun _ _ => .fault .strayPoint

end Sys2Proof.Machine
end

