-- ==== Sys2Proof/Machine/Codec.lean ====
section
/-! DEFINITION. The commands of frame_codec, spec/41_frame_codec.md R131, R135 and R136. -/

namespace Sys2Proof.Machine

/-- R131 from acceptance. -/
def encodeStart (a : Byte) (n : Len) (d : List Byte) (s : State) : Out :=
  s.needOperand n fun s1 =>
    orFault (s1.encode d a) fun
      | none => .next (s1.raise .payloadTooLarge)
      | some s2 =>
        orFault (s2.memReadAll .txf 0 s2.txfLen.toNat) fun frame =>
          .next (s2.respond { n := s2.txfLen, d := frame })

/-- ENCODE, R131. -/
def execEncode (a : Byte) (n : Len) (d : List Byte) (s : State) : Out :=
  s.running (.encode a n d) (encodeStart a n d) fun _ _ => .fault .strayPoint

/-- R135 from acceptance. -/
def decodeStart (n : Len) (d : List Byte) (c : Len) (s : State) : Out :=
  s.needOperand n fun s1 =>
    if n.toNat < 4 then .next (s1.raise .frameLength)
    else
      orFault (s1.loadRxf n d) fun s2 =>
        orFault (s2.decode n.toNat c) fun (p, seq) =>
          .next (s2.respond { v := seq, n := lenField p, d := p })

/-- DECODE, R135. -/
def execDecode (n : Len) (d : List Byte) (c : Len) (s : State) : Out :=
  s.running (.decode n d c) (decodeStart n d c) fun _ _ => .fault .strayPoint

/-- R136 from acceptance: the locate procedure is called. -/
def locateStart (c : Len) (t : Time) (s : State) : Out :=
  s.needConnected fun s1 => .next (s1.callLocate (.locate c t))

/-- R136 once `Locate` returns. -/
def locateReturn (r : LocateResult) (s : State) : Out :=
  match r with
  | .transportErr x => .next (s.raiseTransport x)
  | .noFrame => .next (s.raise .timeout)
  | .frame len =>
    orFault (s.memReadAll .rxf 0 len) fun frame => .next (s.respond { n := lenField frame, d := frame })

/-- LOCATE, R136. -/
def execLocate (c : Len) (t : Time) (s : State) : Out :=
  s.running (.locate c t) (locateStart c t) fun k s1 =>
    s1.runLocate (.locate c t) c t k locateReturn

end Sys2Proof.Machine
end

