-- ==== Sys2Proof/Machine/Receive.lean ====
section
/-! DEFINITION. The receiving commands of arq_fsm: RECV_BASIC (spec/43_arq.md R177) and RECV_RELIABLE (R178). -/

namespace Sys2Proof.Machine

/-- One attempt of a receive loop begins: `Locate(RX_FRAME_MAX, RX_WAIT)`. -/
def recvAttempt (i : Instr) (s : State) : Out := .next (s.callLocate i)

/-! ## RECV_BASIC -/

/-- R177 from acceptance. -/
def recvBasicStart (c : Len) (s : State) : Out :=
  s.needConnected fun s1 => recvAttempt (.recvBasic c) (s1.setTries 1)

/-- R177 once `Locate` returns: a corrupted frame is answered with the sentinel (90_conflicts.md C3). -/
def recvBasicReturn (c : Len) (r : LocateResult) (s : State) : Out :=
  match r with
  | .transportErr x => .next (s.raiseTransport x)
  | .noFrame => (s.inc .timeouts).nextAttempt (recvAttempt (.recvBasic c))
  | .frame len =>
    orFault (s.verify len) fun
      | (false, s1) =>
        .next ((s1.inc .badRcvd).respond
          { n := lenField (truncated s1.cfg.corruptSentinel c), d := truncated s1.cfg.corruptSentinel c })
      | (true, s1) =>
        orFault ((s1.inc .goodRcvd).decode len c) fun (p, _) =>
          .next ((s1.inc .goodRcvd).respond { n := lenField p, d := p })

/-- RECV_BASIC, R177. -/
def execRecvBasic (c : Len) (s : State) : Out :=
  s.running (.recvBasic c) (recvBasicStart c) fun k s1 =>
    s1.runLocate (.recvBasic c) rxFrameMax s1.cfg.rxWait k (recvBasicReturn c)

/-! ## RECV_RELIABLE -/

/-- R178 from acceptance: `expected` is computed once. -/
def recvReliableStart (c : Len) (s : State) : Out :=
  s.needConnected fun s1 =>
    recvAttempt (.recvReliable c) ((s1.setExpected (nextSeq s1.rxLast)).setTries 1)

/-- R178: `e <- (M >= 3) ? rxf[2] : 0x00`. -/
def echoSeq (len : Nat) (s : State) : Except Fault Byte :=
  if 3 ≤ len then s.memRead .rxf 2 else .ok 0

/-- R178: the frame is refused with a NAK that carries `seq`. -/
def refuseFrame (c : Len) (seq : Byte) (s : State) : Out :=
  orFault (s.callAck (.recvReliable c) .ackWrite .neg seq) .next

/-- R178 with a checksum-good frame of length `len`: accepted, a duplicate of the last accepted block, or out of
order. The last two have the same effect. -/
def recvGood (c : Len) (len : Nat) (s : State) : Out :=
  orFault (s.decode len c) fun (p, seq) =>
    if seq = zext8 s.expected then
      orFault (s.callAck (.recvReliable c) (.acceptWrite seq p) .pos seq) .next
    else if seq = zext8 s.rxLast then refuseFrame c seq s
    else refuseFrame c seq s

/-- R178 once `Locate` returns. -/
def recvReliableReturn (c : Len) (r : LocateResult) (s : State) : Out :=
  match r with
  | .transportErr x => .next (s.raiseTransport x)
  | .noFrame => (s.inc .timeouts).nextAttempt (recvAttempt (.recvReliable c))
  | .frame len =>
    orFault (s.verify len) fun
      | (false, s1) =>
        orFault (echoSeq len (s1.inc .badRcvd)) fun e => refuseFrame c e (s1.inc .badRcvd)
      | (true, s1) => recvGood c len (s1.inc .goodRcvd)

/-- R178 after each primitive: an acknowledgement's write, or the locate with `RX_WAIT`. Only a complete ACK accepts the
frame (D32). -/
def recvReliableResume (c : Len) (k : Point) (s : State) : Out :=
  match k with
  | .acceptWrite seq p =>
    s.afterAck .pos fun s1 =>
      .next ((s1.setRxLast (lowSeq seq)).respond { n := lenField p, d := p })
  | .ackWrite => s.afterAck .neg fun s1 => s1.nextAttempt (recvAttempt (.recvReliable c))
  | k => s.runLocate (.recvReliable c) rxFrameMax s.cfg.rxWait k (recvReliableReturn c)

/-- RECV_RELIABLE, R178. -/
def execRecvReliable (c : Len) (s : State) : Out :=
  s.running (.recvReliable c) (recvReliableStart c) (recvReliableResume c)

end Sys2Proof.Machine
end

