-- ==== Sys2Proof/Machine/Send.lean ====
section
/-! DEFINITION. The sending commands of arq_fsm: SEND_ACK (spec/43_arq.md R174), SEND_BASIC (R175) and SEND_RELIABLE
(R176). -/

namespace Sys2Proof.Machine

/-! ## SEND_ACK -/

/-- R174 from acceptance. -/
def sendAckStart (a : Byte) (kind : AckKind) (s : State) : Out :=
  s.needConnected fun s1 => orFault (s1.callAck (.sendAck a kind) .ackWrite kind a) .next

/-- R174 after the write. -/
def sendAckResume (kind : AckKind) (k : Point) (s : State) : Out :=
  match k with
  | .ackWrite => s.afterAck kind fun s1 => .next (s1.respond {})
  | _ => .fault .strayPoint

/-- SEND_ACK, R174. -/
def execSendAck (a : Byte) (kind : AckKind) (s : State) : Out :=
  s.running (.sendAck a kind) (sendAckStart a kind) (sendAckResume kind)

/-! ## The frame both sends build -/

/-- R175, R176 up to the encoded frame: the checks in their order, then `Encode` with `zext_8(tx_seq)`. -/
def sendChecked (n : Len) (d : List Byte) (s : State) (go : State → Out) : Out :=
  s.needOperand n fun s1 => s1.needConnected fun s2 => s2.needBlock n fun s3 =>
    orFault (s3.encode d (zext8 s3.txSeq)) fun
      | none => .next (s3.raise .payloadTooLarge)
      | some s4 => go s4

/-- R24: `tx_seq <- (tx_seq + 1) mod 16`. -/
def State.advanceTxSeq (s : State) : State := s.setTxSeq (nextSeq s.txSeq)

/-! ## SEND_BASIC -/

/-- R175 from acceptance. -/
def sendBasicStart (n : Len) (d : List Byte) (s : State) : Out :=
  sendChecked n d s fun s1 => orFault (s1.callFrameWrite (.sendBasic n d)) .next

/-- R175 after the write. -/
def sendBasicResume (k : Point) (s : State) : Out :=
  match k with
  | .frameWrite =>
    s.afterWrite s.txfLen.toNat fun s1 => .next ((s1.inc .framesSent).advanceTxSeq.respond {})
  | _ => .fault .strayPoint

/-- SEND_BASIC, R175. -/
def execSendBasic (n : Len) (d : List Byte) (s : State) : Out :=
  s.running (.sendBasic n d) (sendBasicStart n d) sendBasicResume

/-! ## SEND_RELIABLE -/

/-- One attempt of R176 begins: the same `txf` bytes every time. -/
def sendAttempt (i : Instr) (s : State) : Out := orFault (s.callFrameWrite i) .next

/-- R176 from acceptance: the first attempt. -/
def sendReliableStart (n : Len) (d : List Byte) (s : State) : Out :=
  sendChecked n d s fun s1 => sendAttempt (.sendReliable n d) (s1.setTries 1)

/-- R176 with a checksum-good response of length `len`. -/
def sendResponse (i : Instr) (len : Nat) (s : State) : Out :=
  orFault (s.decode len 1) fun (st, aseq) =>
    let s1 := s.inc (rcvdCounter (positiveAck s.cfg st))
    if positiveAck s.cfg st ∧ aseq = zext8 s.txSeq then .next (s1.advanceTxSeq.respond {})
    else s1.nextAttempt (sendAttempt i)

/-- R176 once `Locate` returns. -/
def sendReturn (i : Instr) (r : LocateResult) (s : State) : Out :=
  match r with
  | .transportErr x => .next (s.raiseTransport x)
  | .noFrame => (s.inc .timeouts).nextAttempt (sendAttempt i)
  | .frame len =>
    orFault (s.verify len) fun
      | (false, s1) => (s1.inc .badRcvd).nextAttempt (sendAttempt i)
      | (true, s1) => sendResponse i len s1

/-- R176 after each primitive: the write, then the locate with `2 * TX_WAIT`. -/
def sendReliableResume (i : Instr) (k : Point) (s : State) : Out :=
  match k with
  | .frameWrite => s.afterWrite s.txfLen.toNat fun s1 => .next ((s1.inc .framesSent).callLocate i)
  | k => s.runLocate i rxFrameMax (2 * s.cfg.txWait) k (sendReturn i)

/-- SEND_RELIABLE, R176. -/
def execSendReliable (n : Len) (d : List Byte) (s : State) : Out :=
  s.running (.sendReliable n d) (sendReliableStart n d) (sendReliableResume (.sendReliable n d))

end Sys2Proof.Machine
end

