-- ==== Sys2Proof/Machine/Session.lean ====
section
/-! DEFINITION. The session commands of arq_fsm, spec/43_arq.md R170 to R172, and the configuration query R179. -/

namespace Sys2Proof.Machine

/-- 30_encoding.md R86: what `XOpen(ch)` sends. -/
def openRequest (cfg : Config) (ch : Byte) : OpenRequest :=
  { channel := ch
    bitRate := cfg.openBitrate
    dataBits := dataBits
    parity := .none
    rxToConst := cfg.rxToConst
    rxToIntv := cfg.rxToIntv
    errProb := cfg.errProb }

/-- R171 from acceptance. -/
def connectStart (a : Byte) (s : State) : Out :=
  if s.phase = .connected then .next (s.raise .alreadyConnected)
  else .next (s.issue (.connect a) .xOpen (.xOpen (openRequest s.cfg a)))

/-- R171: the registers a successful open initialises. -/
def State.newSession (s : State) : State := ((s.setTxSeq 0).setRxLast 15).setCtr {}

/-- R171 after `XOpen`, and after `Now()`. -/
def connectResume (a : Byte) (k : Point) (s : State) : Out :=
  match k with
  | .xOpen =>
    match s.ctrlAnswer with
    | (.err x, s1) => .next (s1.raiseTransport x)
    | (.ok, s1) => .next (s1.newSession.issue (.connect a) .connectNow .now)
  | .connectNow =>
    .next (((s.readNow.2.setConnStart s.readNow.1).setPhase .connected).respond {})
  | _ => .fault .strayPoint

/-- CONNECT, R171. -/
def execConnect (a : Byte) (s : State) : Out := s.running (.connect a) (connectStart a) (connectResume a)

/-- R172 from acceptance. -/
def disconnectStart (s : State) : Out :=
  s.needConnected fun s1 => .next (s1.issue .disconnect .xClose .xClose)

/-- R172: the response for the answer `XClose` gave, with the report in both cases. -/
def disconnectResponse (r : CtrlAnswer) (rep : Report) : Response :=
  match r with
  | .ok => { report := rep }
  | .err x => { status := .transportError, x := x, report := rep }

/-- R172 after `XClose`, and after `Now()`. -/
def disconnectResume (k : Point) (s : State) : Out :=
  match k with
  | .xClose => .next (s.ctrlAnswer.2.issue .disconnect (.disconnectNow s.ctrlAnswer.1) .now)
  | .disconnectNow r =>
    .next ((s.readNow.2.setPhase .disconnected).respond
      (disconnectResponse r (s.ctr.report (s.readNow.1 - s.connStart))))
  | _ => .fault .strayPoint

/-- DISCONNECT, R172. -/
def execDisconnect (s : State) : Out := s.running .disconnect disconnectStart disconnectResume

/-- R179 from acceptance. -/
def getOptBlockStart (s : State) : Out :=
  .next (s.respond { v := BitVec.ofNat 8 s.cfg.optBlock })

/-- GET_OPT_BLOCK, R179. -/
def execGetOptBlock (s : State) : Out :=
  s.running .getOptBlock getOptBlockStart fun _ _ => .fault .strayPoint

end Sys2Proof.Machine
end

