-- ==== Sys2Proof/Machine/Timer.lean ====
section
/-! DEFINITION. The commands of timer_comparator, spec/42_timer.md R161 and R162, over its procedures (R160). -/

namespace Sys2Proof.Machine

/-- R161 from acceptance. -/
def setDeadlineStart (t : Time) (s : State) : Out :=
  .next (s.issue (.setDeadline t) .deadlineNow .now)

/-- R160, R161: `dl <- Now() + t`, and the answer is `dl`. -/
def setDeadlineResume (t : Time) (k : Point) (s : State) : Out :=
  match k with
  | .deadlineNow =>
    .next ((s.readNow.2.setDl (s.readNow.1 + t)).respond { t := s.readNow.1 + t })
  | _ => .fault .strayPoint

/-- SET_DEADLINE, R161. -/
def execSetDeadline (t : Time) (s : State) : Out :=
  s.running (.setDeadline t) (setDeadlineStart t) (setDeadlineResume t)

/-- R162 from acceptance. -/
def isElapsedStart (s : State) : Out := .next (s.issue .isElapsed .elapsedNow .now)

/-- R160, R162: `v` is the comparator output. -/
def isElapsedResume (k : Point) (s : State) : Out :=
  match k with
  | .elapsedNow =>
    .next (s.readNow.2.respond { v := bitByte (elapsed s.readNow.1 s.readNow.2.dl) })
  | _ => .fault .strayPoint

/-- IS_ELAPSED, R162. -/
def execIsElapsed (s : State) : Out := s.running .isElapsed isElapsedStart isElapsedResume

end Sys2Proof.Machine
end

