-- ==== Sys2Proof/Machine/Dispatch.lean ====
section
/-! DEFINITION. One arm per command, each one call of its meaning. -/

namespace Sys2Proof.Machine

def exec (i : Instr) (s : State) : Host.Outcome State Fault Refusal :=
  match i with
  | .csCompute a b n d => Sys2Proof.Machine.execCsCompute a b n d s
  | .csVerify n d => Sys2Proof.Machine.execCsVerify n d s
  | .encode a n d => Sys2Proof.Machine.execEncode a n d s
  | .decode n d c => Sys2Proof.Machine.execDecode n d c s
  | .locate c t => Sys2Proof.Machine.execLocate c t s
  | .setDeadline t => Sys2Proof.Machine.execSetDeadline t s
  | .isElapsed => Sys2Proof.Machine.execIsElapsed s
  | .connect a => Sys2Proof.Machine.execConnect a s
  | .disconnect => Sys2Proof.Machine.execDisconnect s
  | .sendBasic n d => Sys2Proof.Machine.execSendBasic n d s
  | .sendReliable n d => Sys2Proof.Machine.execSendReliable n d s
  | .recvBasic c => Sys2Proof.Machine.execRecvBasic c s
  | .recvReliable c => Sys2Proof.Machine.execRecvReliable c s
  | .sendAck a kind => Sys2Proof.Machine.execSendAck a kind s
  | .getOptBlock => Sys2Proof.Machine.execGetOptBlock s

end Sys2Proof.Machine
end

