-- ==== Sys2Proof/Machine/Step.lean ====
section
/-! DEFINITION. One step of the machine: the reset input first (spec/60_exceptions.md R224, "reset wins"), then the
running command's next environment primitive (spec/00_scope.md R10), or, in IDLE, the host's taking of a response and
the acceptance of the next command (spec/30_encoding.md R94). -/

namespace Sys2Proof.Machine

/-- In IDLE with no response waiting: the host's next record is decoded and accepted (R89, R94). With no record the
block waits and all state persists (60_exceptions.md R234). -/
def acceptNext (s : State) : Host.Outcome State Fault Refusal :=
  match s.env.cmds with
  | [] => .next s
  | c :: _ =>
    match decodeCommand c with
    | .ok i => exec i s.dropCommand
    | .error (.illegalOpcode _) => .next s.dropCommand.answerIllegal
    | .error (.shortData _ _) => .refused .malformedCommand

/-- A step with the reset input not asserted. -/
def stepRunning (s : State) : Host.Outcome State Fault Refusal :=
  match s.ustate with
  | .busy i _ => exec i s
  | .idle =>
    match s.rspPending with
    | true => .next s.takeResponse
    | false => acceptNext s

/-- One step. -/
def step (s : State) : Host.Outcome State Fault Refusal :=
  match s.env.rst with
  | [] => stepRunning s
  | true :: rest => .next (s.setRst rest).applyReset
  | false :: rest => stepRunning (s.setRst rest)

/-- `s` with the command of the table's word as the record the host presents next, so that the very next step accepts
it (log entry 7). -/
def State.withFetchWord (s : State) (nbits w : Nat) : State := s.present (commandOfTableWord nbits w)

end Sys2Proof.Machine
end

