-- ==== Sys2Proof/Safety.lean ====
section
/-! DEFINITION. What a safe state is: the invariant of the machine, in the terms claims use. It collects what
spec/10_state.md says every register holds (R24 to R35), which positions a command waits at (R22), what is true while it
waits there (the rules of spec/41_frame_codec.md and spec/43_arq.md), and which stops a safe step may end in. -/

namespace Sys2Proof.Machine

/-! ## Which command waits where -/

/-- R222: the commands that require `phase` = 1. -/
def needsConnection : Instr → Bool
  | .csCompute _ _ _ _ => false
  | .csVerify _ _ => false
  | .encode _ _ _ => false
  | .decode _ _ _ => false
  | .locate _ _ => true
  | .setDeadline _ => false
  | .isElapsed => false
  | .connect _ => false
  | .disconnect => true
  | .sendBasic _ _ => true
  | .sendReliable _ _ => true
  | .recvBasic _ => true
  | .recvReliable _ => true
  | .sendAck _ _ => true
  | .getOptBlock => false

/-- The positions inside the locate procedure (R133). -/
def inLocate : Point → Bool
  | .locateNow => true
  | .huntRead => true
  | .huntNow => true
  | .sizeRead => true
  | .sizeNow => true
  | .bodyRead => true
  | .bodyNow => true
  | _ => false

/-- R22: the positions of each command's pseudocode. -/
def waitsAt : Instr → Point → Bool
  | .csCompute _ _ _ _, _ => false
  | .csVerify _ _, _ => false
  | .encode _ _ _, _ => false
  | .decode _ _ _, _ => false
  | .locate _ _, k => inLocate k
  | .setDeadline _, k => k == .deadlineNow
  | .isElapsed, k => k == .elapsedNow
  | .connect _, k => k == .xOpen || k == .connectNow
  | .disconnect, .xClose => true
  | .disconnect, .disconnectNow _ => true
  | .disconnect, _ => false
  | .sendBasic _ _, k => k == .frameWrite
  | .sendReliable _ _, k => k == .frameWrite || inLocate k
  | .recvBasic _, k => inLocate k
  | .recvReliable _, .ackWrite => true
  | .recvReliable _, .acceptWrite _ _ => true
  | .recvReliable _, k => inLocate k
  | .sendAck _ _, k => k == .ackWrite
  | .getOptBlock, _ => false

/-- The maxSize a command gives the locate procedure (R136; RX_FRAME_MAX for the engine, D47). -/
def maxSizeOf : Instr → Len
  | .locate c _ => c
  | _ => rxFrameMax

/-- The commands with a `for tries in 1 .. MAX_TRIES` loop (R176 to R178). -/
def retries : Instr → Bool
  | .sendReliable _ _ => true
  | .recvBasic _ => true
  | .recvReliable _ => true
  | _ => false

/-! ## What a buffer holds -/

/-- The buffer holds these bytes from offset `i` up. -/
def Memory.holds (m : Memory) (i : Nat) : List Byte → Bool
  | [] => true
  | v :: vs => (m.get? i == some v) && Memory.holds m (i + 1) vs

/-- Every byte below offset `k`, from `i` up, has been written. -/
def Memory.filled (m : Memory) (i k : Nat) : Prop := ∀ j, i ≤ j → j < k → ∃ v, m.get? j = some v

/-! ## Frames as byte strings -/

/-- The bytes a frame's checksum covers: `f[1..L-2]`, neither marker nor checksum (R111). -/
def coveredBytes (f : List Byte) : List Byte := (f.drop 1).dropLast

/-- R111: a byte string is Good when it has at least 4 bytes and its last byte is the checksum of the covered ones. -/
def goodFrame (f : List Byte) : Bool :=
  decide (4 ≤ f.length) && (csFold 0 (coveredBytes f) == f.getLastD 0)

/-- R132: the payload of a frame, `f[3..L-2]`. -/
def payloadOf (f : List Byte) : List Byte := (f.drop 3).dropLast

/-- R132: the sequence byte of a frame. -/
def seqOf (f : List Byte) : Byte := f.getD 2 0

/-! ## The invariant -/

/-- What is true while a command is inside the locate procedure (R133, R134). -/
def State.locateOk (s : State) (i : Instr) (k : Point) : Prop :=
  match k with
  | .huntRead | .huntNow => s.locMax = maxSizeOf i
  | .sizeRead | .sizeNow => s.locMax = maxSizeOf i ∧ s.rxf.get? 0 = some s.cfg.marker
  | .bodyRead | .bodyNow =>
    s.locMax = maxSizeOf i ∧ s.rxf.get? 0 = some s.cfg.marker ∧ s.rxf.get? 1 = some s.locNeed ∧
      s.rxf.filled 2 (2 + s.locCnt.toNat) ∧ s.locCnt.toNat < s.locNeed.toNat ∧
      2 + s.locNeed.toNat ≤ s.locMax.toNat
  | _ => True

/-- What a running command has established (R171, R175 to R178). -/
def State.commandOk (s : State) (i : Instr) (k : Point) : Prop :=
  match i with
  | .connect _ =>
    s.phase = .disconnected ∧ (k = .connectNow → s.txSeq = 0 ∧ s.rxLast = 15 ∧ s.ctr = {})
  | .sendBasic n d | .sendReliable n d =>
    n.toNat = d.length ∧ d.length ≤ s.cfg.maxBlock ∧ s.txfLen.toNat = d.length + 4 ∧
      s.txf.holds 0 (frameBytes s.cfg.marker (zext8 s.txSeq) d) = true
  | .recvReliable c =>
    s.expected = nextSeq s.rxLast ∧
      (∀ seq p, k = .acceptWrite seq p → seq = zext8 s.expected ∧ p.length ≤ c.toNat)
  | _ => True

/-- R22, R94: a running command is at a position of its own, no response waits, and what it needs still holds. -/
def State.controlOk (s : State) : Prop :=
  match s.ustate with
  | .idle => True
  | .busy i k =>
    i.wf = true ∧ waitsAt i k = true ∧ s.rspPending = false ∧
      (needsConnection i = true → s.phase = .connected) ∧
      (retries i = true → 1 ≤ s.tries ∧ s.tries ≤ s.cfg.maxTries) ∧
      s.locateOk i k ∧ s.commandOk i k

/-- What every register and buffer holds, whatever the controller does. -/
structure State.RegsOk (s : State) : Prop where
  /-- the buffers are in their canonical form, inside their sizes (R60) -/
  txfWf : Memory.wf 257 s.txf = true
  rxfWf : Memory.wf 257 s.rxf = true
  akfWf : Memory.wf 5 s.akf = true
  /-- R29, R30: lengths hold 0..257 -/
  txfLen : s.txfLen.toNat ≤ 257
  rxfLen : s.rxfLen.toNat ≤ 257
  /-- R32: `cs_acc` holds 0..249 -/
  csAcc : s.csAcc.toNat < 250
  /-- R27, R172: the session did not start in the future -/
  connStart : s.connStart ≤ s.env.now
  /-- R85: `n` is the length of `d` -/
  rspLen : s.rsp.n.toNat = s.rsp.d.length

/-- The invariant of the machine. -/
structure State.Inv (s : State) : Prop where
  /-- R24 to R35 -/
  regs : s.RegsOk
  /-- R22 -/
  control : s.controlOk

/-- The stops a step from a safe state may end in: the transport broke its duty (R86), or the host presented a record
that is none (R84). -/
def allowedStop : Out → Bool
  | .next _ => true
  | .fault (.transportOvercount _ _) => true
  | .fault _ => false
  | .refused .malformedCommand => true
  | .refused _ => false

/-! ## Which command touches what -/

/-- R87, R90: the length operand of the commands that read the data operand. -/
def dataLength : Instr → Option Len
  | .csCompute _ _ n _ => some n
  | .csVerify n _ => some n
  | .encode _ n _ => some n
  | .decode n _ _ => some n
  | .sendBasic n _ => some n
  | .sendReliable n _ => some n
  | _ => none

/-- R222: the commands that work in either phase. -/
def unitCommand : Instr → Bool
  | .csCompute _ _ _ _ => true
  | .csVerify _ _ => true
  | .encode _ _ _ => true
  | .decode _ _ _ => true
  | .setDeadline _ => true
  | .isElapsed => true
  | .getOptBlock => true
  | _ => false

/-- R29: the commands that build a frame in `txf`. -/
def buildsFrame : Instr → Bool
  | .encode _ _ _ => true
  | .sendBasic _ _ => true
  | .sendReliable _ _ => true
  | _ => false

/-- R30: the commands that copy their data operand into `rxf`. -/
def copiesOperand : Instr → Bool
  | .csVerify _ _ => true
  | .decode _ _ _ => true
  | _ => false

/-- R30, R33: the commands that run the locate procedure. -/
def usesLocate : Instr → Bool
  | .locate _ _ => true
  | .sendReliable _ _ => true
  | .recvBasic _ => true
  | .recvReliable _ => true
  | _ => false

/-- R31: the commands that build an acknowledgement in `akf`. -/
def buildsAck : Instr → Bool
  | .recvReliable _ => true
  | .sendAck _ _ => true
  | _ => false

/-- R110, R111: the commands that use the checksum accumulator. -/
def usesChecksum : Instr → Bool
  | .csCompute _ _ _ _ => true
  | .csVerify _ _ => true
  | .encode _ _ _ => true
  | .sendBasic _ _ => true
  | .sendReliable _ _ => true
  | .recvBasic _ => true
  | .recvReliable _ => true
  | .sendAck _ _ => true
  | _ => false

/-- 43_arq.md R180: the commands that increment a counter. -/
def counts : Instr → Counter → Bool
  | .sendBasic _ _, .framesSent => true
  | .sendReliable _ _, .framesSent => true
  | .sendReliable _ _, .acksRcvd => true
  | .sendReliable _ _, .naksRcvd => true
  | .sendReliable _ _, .badRcvd => true
  | .sendReliable _ _, .timeouts => true
  | .recvBasic _, .goodRcvd => true
  | .recvBasic _, .badRcvd => true
  | .recvBasic _, .timeouts => true
  | .recvReliable _, .goodRcvd => true
  | .recvReliable _, .badRcvd => true
  | .recvReliable _, .timeouts => true
  | .recvReliable _, .acksSent => true
  | .recvReliable _, .naksSent => true
  | .sendAck _ .pos, .acksSent => true
  | .sendAck _ .neg, .naksSent => true
  | _, _ => false

/-- 60_exceptions.md R223, items 2 to 4: the first cause that keeps a command from execution. -/
def firstCause (i : Instr) (s : State) : Option Status :=
  if (dataLength i).any (fun n => decide (257 < n.toNat)) then some .badOperand
  else if needsConnection i && s.phase == .disconnected then some .notConnected
  else
    match i with
    | .connect _ => if s.phase = .connected then some .alreadyConnected else none
    | .encode _ n _ => if 253 < n.toNat then some .payloadTooLarge else none
    | .sendBasic n _ | .sendReliable n _ => if s.cfg.maxBlock < n.toNat then some .payloadTooLarge else none
    | .decode n _ _ => if n.toNat < 4 then some .frameLength else none
    | _ => none

/-- The state in which command `i` has been answered at once: only the response registers differ, and the host has
taken the response before. -/
def State.answered (s : State) (r : Response) : State :=
  { s with ustate := .idle, rsp := r, rspPending := true }

/-! ## Command records -/

/-- R87, R89, R91: two records with the same opcode agree on every field their command reads. -/
def sameOperands (c c' : Command) : Prop :=
  match c.op.toNat with
  | 0x01 => c.a = c'.a ∧ c.b = c'.b ∧ c.n = c'.n ∧ c.d.take c.n.toNat = c'.d.take c.n.toNat
  | 0x02 => c.n = c'.n ∧ c.d.take c.n.toNat = c'.d.take c.n.toNat
  | 0x03 => c.a = c'.a ∧ c.n = c'.n ∧ c.d.take c.n.toNat = c'.d.take c.n.toNat
  | 0x04 => c.n = c'.n ∧ c.c = c'.c ∧ c.d.take c.n.toNat = c'.d.take c.n.toNat
  | 0x05 => c.c = c'.c ∧ c.t = c'.t
  | 0x06 => c.t = c'.t
  | 0x08 => c.a = c'.a
  | 0x0A => c.n = c'.n ∧ c.d.take c.n.toNat = c'.d.take c.n.toNat
  | 0x0B => c.n = c'.n ∧ c.d.take c.n.toNat = c'.d.take c.n.toNat
  | 0x0C => c.c = c'.c
  | 0x0D => c.c = c'.c
  | 0x0E => c.a = c'.a ∧ c.b.getLsbD 0 = c'.b.getLsbD 0
  | _ => True

/-! ## Bytes and frames -/

/-- The exact sum of a byte string. -/
def byteSum (bytes : List Byte) : Nat := (bytes.map BitVec.toNat).sum

/-! ## How the locate procedure ends (R133) -/

/-- The positions at which the block waits on `RxRead()`. -/
def readsStream : Point → Bool
  | .huntRead => true
  | .sizeRead => true
  | .bodyRead => true
  | _ => false

/-- The positions at which the block waits on `Now()`. -/
def readsTime : Point → Bool
  | .deadlineNow => true
  | .elapsedNow => true
  | .connectNow => true
  | .disconnectNow _ => true
  | .locateNow => true
  | .huntNow => true
  | .sizeNow => true
  | .bodyNow => true
  | _ => false

/-- The positions at which the block waits on `TxWrite`. -/
def writesFrame : Point → Bool
  | .frameWrite => true
  | .ackWrite => true
  | .acceptWrite _ _ => true
  | _ => false

/-- The positions at which the block waits on `XOpen` or `XClose`. -/
def callsControl : Point → Bool
  | .xOpen => true
  | .xClose => true
  | _ => false

/-- The block waits at a position of kind `p`; in IDLE it waits at none. -/
def State.waitsFor (s : State) (p : Point → Bool) : Bool :=
  match s.ustate with
  | .idle => false
  | .busy _ k => p k

/-- From `s` to `t` each port's script loses one answer where `s` waits at that port, and none elsewhere; time is read
only where `s` waits on it. -/
structure State.consumesTo (s t : State) : Prop where
  rx : t.env.rx = if s.waitsFor readsStream then s.env.rx.tail else s.env.rx
  tx : t.env.tx = if s.waitsFor writesFrame then s.env.tx.tail else s.env.tx
  ctrl : t.env.ctrl = if s.waitsFor callsControl then s.env.ctrl.tail else s.env.ctrl
  ticks : t.env.ticks = if s.waitsFor readsTime then s.env.ticks.tail else s.env.ticks
  now : s.waitsFor readsTime = false → t.env.now = s.env.now

/-- The answer at hand completes frame `f` and leaves environment `e`: the last body byte arrives, or a size byte of
zero (R133, R134). The bytes of `f` before it stand in `rxf`. -/
def State.completes (s : State) (k : Point) (f : List Byte) (e : Env) : Prop :=
  ∃ g b, f = g ++ [b] ∧ s.env.rxRead = (.byte b, e) ∧ s.rxf.holds 0 g = true ∧
    (k = .bodyRead ∧ f.length = 2 + s.locNeed.toNat ∧ s.locCnt.toNat + 1 = s.locNeed.toNat ∨
      k = .sizeRead ∧ b = 0 ∧ f.length = 2 ∧ 2 ≤ s.locMax.toNat)

/-- The state in which the locate procedure has just returned frame `f`. -/
def State.located (s : State) (f : List Byte) (e : Env) : State :=
  { s with
    env := e
    rxf := s.rxf.put (f.length - 1) (f.getLastD 0)
    rxfLen := BitVec.ofNat 9 f.length
    locNeed := BitVec.ofNat 8 (f.length - 2)
    locCnt := BitVec.ofNat 9 (f.length - 2) }

/-- The locate procedure returns NoFrame and leaves `t`: a deadline test finds the deadline reached, or the size byte
at hand does not fit maxSize (R133). -/
def State.findsNone (s : State) (k : Point) (t : State) : Prop :=
  (k = .huntNow ∨ k = .sizeNow ∨ k = .bodyNow) ∧ s.dl ≤ s.env.readNow.1 ∧ t = { s with env := s.env.readNow.2 } ∨
    k = .sizeRead ∧ ∃ b e, s.env.rxRead = (.byte b, e) ∧ s.locMax.toNat < 2 + b.toNat ∧
      t = { s with env := e, locNeed := b, rxf := s.rxf.put 1 b }

/-! ## A whole command -/

/-- Apply `f` to the next state of an answer. -/
def mapNext (f : State → State) : Out → Out
  | .next t => .next (f t)
  | .fault e => .fault e
  | .refused r => .refused r

/-- The frames offered to the transport, in order. -/
def writesOf (log : List Request) : List (List Byte) :=
  log.filterMap fun
    | .txWrite bytes => some bytes
    | _ => none

/-- Run command `i` from `s` (in IDLE: from its acceptance), one environment primitive a step, for at most `fuel` steps,
until it has sent its response and is back in IDLE; `none` where it stops or is not finished yet. -/
def finishes (i : Instr) : Nat → State → Option State
  | 0, _ => none
  | fuel + 1, s =>
    match exec i s with
    | .next t => if t.ustate = .idle then some t else finishes i fuel t
    | .fault _ => none
    | .refused _ => none

end Sys2Proof.Machine
end

