-- ==== Sys2Proof/Certificates/Slice0/Obligations.lean ====
section
/-! DEFINITION. The statements for the provers. Each docstring names the rule of spec/ it formalises. Where a statement
speaks of a step that reads the environment, the answer is whatever `env` gives at that step: the script's next answer
or a free value. -/

open Sys2Proof Sys2Proof.Machine

/-! ## Encoding (spec/30_encoding.md) -/

/-- R87, R91: encoding a well-formed command and decoding the record gives the command back: no bit of an operand is
dropped. -/
def Obligations.DecodeInvertsEncode : Prop :=
  ∀ i : Instr, i.wf = true → decodeCommand (encodeInstr i) = .ok i

/-- R84, R87, R91: what is decoded is well-formed, and its fields are the record's, unchanged. -/
def Obligations.DecodedCommandsKeepTheirFields : Prop :=
  ∀ (c : Command) (i : Instr), decodeCommand c = .ok i →
    i.wf = true ∧ (encodeInstr i).op = c.op ∧ sameOperands c (encodeInstr i)

/-- R89: a record with an unassigned opcode is accepted and answered with ILLEGAL_OPCODE, whatever its other fields,
changing nothing but `rsp` and issuing nothing; and of an assigned command, the operand fields R87 does not list, `b[7:1]`
of SEND_ACK and the bytes of `d` beyond `n` are ignored. -/
def Obligations.UnassignedAndIgnoredEncodings : Prop :=
  (∀ (s : State) (c : Command) (rest : List Command),
    s.ustate = .idle → s.rspPending = false → s.env.rst.head? ≠ some true → s.env.cmds = c :: rest →
    (c.op.toNat = 0x00 ∨ 0x10 ≤ c.op.toNat) →
      step s = .next ({ s with env := { s.env with rst := s.env.rst.tail, cmds := rest } }.answered
        { status := .illegalOpcode })) ∧
    ∀ c c' : Command, c.op = c'.op → sameOperands c c' →
      (∀ i, decodeCommand c = .ok i → decodeCommand c' = .ok i) ∧
        (1 ≤ c.op.toNat ∧ c.op.toNat ≤ 0x0F → c.n.toNat ≤ c.d.length → ∃ i, decodeCommand c = .ok i)

/-- R87: words of the encoding table decode to their commands. -/
def Obligations.WordsOfTheEncodingTable : Prop :=
  decodeCommand { op := 0x01#8, a := 0x00#8, b := 0x05#8, n := 3#9, d := [0x01#8, 0x02#8, 0x03#8] } =
      .ok (.csCompute 0x00#8 0x05#8 3#9 [0x01#8, 0x02#8, 0x03#8]) ∧
    decodeCommand { op := 0x05#8, c := 257#9, t := 5 } = .ok (.locate 257#9 5) ∧
    decodeCommand { op := 0x06#8, t := 5 } = .ok (.setDeadline 5) ∧
    decodeCommand { op := 0x08#8, a := 0x01#8 } = .ok (.connect 0x01#8) ∧
    decodeCommand { op := 0x0B#8, n := 1#9, d := [0x02#8] } = .ok (.sendReliable 1#9 [0x02#8]) ∧
    decodeCommand { op := 0x0D#8, c := 255#9 } = .ok (.recvReliable 255#9) ∧
    decodeCommand { op := 0x0E#8, a := 0x0F#8, b := 0xFE#8 } = .ok (.sendAck 0x0F#8 .neg)

/-! ## The step and the ports (spec/30_encoding.md R94, spec/60_exceptions.md R220, R225, R234) -/

/-- R22, R94: a step with reset not asserted runs the decoded command: in IDLE the one the host's next record holds,
in BUSY the one that was accepted. -/
def Obligations.StepRunsTheDecodedCommand : Prop :=
  ∀ s : State, s.env.rst.head? ≠ some true →
    (∀ (c : Command) (rest : List Command) (i : Instr),
      s.ustate = .idle → s.rspPending = false → s.env.cmds = c :: rest → decodeCommand c = .ok i →
        step s = exec i { s with env := { s.env with rst := s.env.rst.tail, cmds := rest } }) ∧
      ∀ (i : Instr) (k : Point),
        s.ustate = .busy i k → step s = exec i { s with env := { s.env with rst := s.env.rst.tail } }

/-- R225, R234 and log entry 5 (the taking of a response as a step of its own is the model's): in IDLE the host first
takes the response that waits; with none waiting and no record presented, all state persists. -/
def Obligations.TheHostsTurn : Prop :=
  ∀ s : State, s.ustate = .idle → s.env.rst.head? ≠ some true →
    (s.rspPending = true →
      step s = .next { s with
        rspPending := false
        env := { s.env with rst := s.env.rst.tail, taken := s.env.taken ++ [s.rsp] } }) ∧
      (s.rspPending = false → s.env.cmds = [] →
        step s = .next { s with env := { s.env with rst := s.env.rst.tail } })

/-- R94, R254: while a command runs no other has a move on the command port, and no step takes a record or a response
there. -/
def Obligations.OneCommandAtATime : Prop :=
  ∀ (s : State) (i : Instr) (k : Point), s.ustate = .busy i k →
    (∀ j : Instr, j ≠ i → exec j s = .fault .portBusy) ∧
      ∀ t : State, exec i s = .next t → t.env.cmds = s.env.cmds ∧ t.env.taken = s.env.taken ∧ t.env.rst = s.env.rst

/-- R10, R22, R68, R94: a step of a running command either sends its one response and returns to IDLE, issuing nothing,
or issues exactly one request and waits in BUSY, leaving the response registers alone. -/
def Obligations.EveryStepRespondsOrIssuesOneRequest : Prop :=
  ∀ (s t : State) (i : Instr), (s.ustate = .idle ∨ ∃ k, s.ustate = .busy i k) → exec i s = .next t →
    (t.ustate = .idle ∧ t.rspPending = true ∧ t.env.log = s.env.log) ∨
      ∃ (k : Point) (r : Request), t.ustate = .busy i k ∧ t.rsp = s.rsp ∧ t.env.log = s.env.log ++ [r] ∧
        (t.rspPending = true → s.rspPending = true)

/-! ## Reset (spec/70_reset_and_hazards.md) -/

/-- R250: when the reset input is asserted, every register takes its value of 10_state.md R39, and the block waits in
IDLE with nothing pending. -/
def Obligations.ResetGivesEveryRegisterItsValue : Prop :=
  ∀ (s : State) (rest : List Bool), s.env.rst = true :: rest →
    ∃ t : State, step s = .next t ∧ t.ustate = .idle ∧ t.phase = .disconnected ∧ t.txSeq = 0 ∧ t.rxLast = 15 ∧
      (∀ c : Counter, t.ctr.get c = 0) ∧ t.connStart = 0 ∧ t.dl = 0 ∧
      (t.csAcc = 0 ∧ t.locNeed = 0 ∧ t.locCnt = 0 ∧ t.locMax = 0 ∧ t.tries = 0 ∧ t.expected = 0) ∧
      (t.txfLen = 0 ∧ t.rxfLen = 0) ∧ t.rsp = {} ∧ t.rspPending = false

/-- R251: reset aborts a running command: no response, nothing issued, no effect on the transport or on time; and of the
aborted command nothing is left, so that two states with the same configuration and environment are the same after it.
That the answers of an abandoned primitive never enter the script is the model's (log entry 6), and so is that the buffers,
whose contents after reset R39 leaves unspecified, hold no byte at all then (log entry 4). -/
def Obligations.ResetAbortsTheCommand : Prop :=
  ∀ (s : State) (rest : List Bool), s.env.rst = true :: rest →
    ∃ t : State, step s = .next t ∧ t.cfg = s.cfg ∧ t.env = { s.env with rst := rest } ∧
      ∀ s' : State, s'.cfg = s.cfg → s'.env = s.env → step s' = .next t

/-- 10_state.md R39: what the machine holds at `State.reset`: the listed values, and no byte in any buffer (R40; that an
unwritten byte is absent is the model's choice, log entry 4). -/
def Obligations.StateAfterReset : Prop :=
  State.reset.ustate = .idle ∧ State.reset.phase = .disconnected ∧ State.reset.txSeq = 0 ∧ State.reset.rxLast = 15 ∧
    State.reset.ctr = {} ∧ State.reset.connStart = 0 ∧ State.reset.dl = 0 ∧ State.reset.csAcc = 0 ∧
    State.reset.locNeed = 0 ∧ State.reset.locCnt = 0 ∧ State.reset.locMax = 0 ∧ State.reset.tries = 0 ∧
    State.reset.expected = 0 ∧ State.reset.txfLen = 0 ∧ State.reset.rxfLen = 0 ∧ State.reset.rsp = {} ∧
    State.reset.rspPending = false ∧
    ∀ (b : BufName) (i : Nat), i < b.size → State.reset.memRead b i = .error (.unwrittenByte b i)

/-! ## Invariants -/

/-- R24 to R35: the invariant holds of the machine after reset. -/
def Obligations.InvariantAtReset : Prop := State.reset.Inv

/-- R22 to R35: every step keeps the invariant: buffers in canonical form, registers in their ranges, every running
command at a position of its own with what it needs there. -/
def Obligations.StepKeepsTheInvariant : Prop :=
  ∀ s t : State, s.Inv → step s = .next t → t.Inv

/-- R40, R64: from a safe state no step stops, but where the transport breaks its duty (R86; that this is a stuck state
of its own name is log entry 9) or the host presents a record with fewer data bytes than it says (that this is refused as
`malformedCommand` is the model's choice, log entry 10): no read of an unwritten byte, no access out of range, no stray
position. -/
def Obligations.SafeStatesNeverStick : Prop :=
  ∀ s : State, s.Inv → allowedStop (step s) = true

/-- 00_scope.md R6, R10, 42_timer.md R163: no step changes the configuration, and time never goes back. -/
def Obligations.ConfigurationStaysAndTimeAdvances : Prop :=
  ∀ s t : State, step s = .next t → t.cfg = s.cfg ∧ s.env.now ≤ t.env.now

/-- 10_state.md R23, 43_arq.md R170: only CONNECT sets `phase`, only DISCONNECT and reset clear it, and each at its last
step. -/
def Obligations.PhaseChangesOnlyInSessionCommands : Prop :=
  ∀ s t : State, step s = .next t → t.phase ≠ s.phase →
    (s.env.rst.head? = some true ∧ t.phase = .disconnected) ∨
      (∃ a, s.ustate = .busy (.connect a) .connectNow ∧ t.phase = .connected ∧ t.ustate = .idle ∧
        t.rsp.status = .ok) ∨
      ∃ r, s.ustate = .busy .disconnect (.disconnectNow r) ∧ t.phase = .disconnected ∧ t.ustate = .idle

/-- 10_state.md R24, 43_arq.md R181, 60_exceptions.md R224: `tx_seq` changes only at reset, when CONNECT sets it to 0 after
an open, or by one with the OK of SEND_BASIC or SEND_RELIABLE; and every such OK advances it by one, modulo 16. -/
def Obligations.TxSeqAdvancesExactlyWithAnOkSend : Prop :=
  (∀ s t : State, step s = .next t → t.txSeq ≠ s.txSeq →
    (s.env.rst.head? = some true ∧ t.txSeq = 0) ∨
      (∃ a, s.ustate = .busy (.connect a) .xOpen ∧ t.txSeq = 0 ∧ t.ustate ≠ .idle) ∨
      ∃ i k, s.ustate = .busy i k ∧ (∃ n d, i = .sendBasic n d ∨ i = .sendReliable n d) ∧
        t.ustate = .idle ∧ t.rsp.status = .ok) ∧
    ∀ (s t : State) (i : Instr) (k : Point), (∃ n d, i = .sendBasic n d ∨ i = .sendReliable n d) →
      s.ustate = .busy i k → exec i s = .next t → t.ustate = .idle → t.rsp.status = .ok →
        t.txSeq.toNat = (s.txSeq.toNat + 1) % 16

/-- 10_state.md R25, 43_arq.md R181, 60_exceptions.md R224: `rx_last` changes only at reset, when CONNECT sets it to 15
after an open, or with the OK of RECV_RELIABLE, and then to the number after the last accepted one. -/
def Obligations.RxLastMovesOnlyWithAnAcceptedFrame : Prop :=
  ∀ s t : State, s.Inv → step s = .next t → t.rxLast ≠ s.rxLast →
    (s.env.rst.head? = some true ∧ t.rxLast = 15) ∨
      (∃ a, s.ustate = .busy (.connect a) .xOpen ∧ t.rxLast = 15 ∧ t.ustate ≠ .idle) ∨
      ∃ c k, s.ustate = .busy (.recvReliable c) k ∧ t.rxLast = s.rxLast + 1 ∧ t.ustate = .idle ∧ t.rsp.status = .ok

/-- 43_arq.md R180: a counter changes only at reset or CONNECT, to 0, or by one in a command the table names for it. -/
def Obligations.CountersChangeOnlyWhereListed : Prop :=
  ∀ (s t : State) (c : Counter), step s = .next t → t.ctr.get c ≠ s.ctr.get c →
    (t.ctr.get c = 0 ∧ (s.env.rst.head? = some true ∨ ∃ a, s.ustate = .busy (.connect a) .xOpen)) ∨
      ∃ i k, s.ustate = .busy i k ∧ counts i c = true ∧ t.ctr.get c = s.ctr.get c + 1

/-- 10_state.md R28 to R34 and the 'State written' lines of every command rule: which commands write which register.
Stated for every step of a command, whatever its position. -/
def Obligations.RegistersAreWrittenOnlyByTheirCommands : Prop :=
  ∀ (s t : State) (i : Instr), exec i s = .next t →
    (t.dl ≠ s.dl → usesLocate i = true ∨ ∃ d, i = .setDeadline d) ∧
    (t.txf ≠ s.txf ∨ t.txfLen ≠ s.txfLen → buildsFrame i = true) ∧
    (t.rxf ≠ s.rxf ∨ t.rxfLen ≠ s.rxfLen → usesLocate i = true ∨ copiesOperand i = true) ∧
    (t.akf ≠ s.akf → buildsAck i = true) ∧
    (t.csAcc ≠ s.csAcc → usesChecksum i = true) ∧
    (t.locNeed ≠ s.locNeed ∨ t.locCnt ≠ s.locCnt ∨ t.locMax ≠ s.locMax → usesLocate i = true) ∧
    (t.tries ≠ s.tries → retries i = true) ∧
    (t.expected ≠ s.expected → ∃ c, i = .recvReliable c) ∧
    (t.connStart ≠ s.connStart → ∃ a, i = .connect a) ∧
    (t.ctr ≠ s.ctr → (∃ a, i = .connect a) ∨ ∃ c, counts i c = true)

/-- 20_memory.md R63, 00_scope.md R10: only an `RxRead` takes from the receive stream, and it takes one answer; only a
write takes an answer of the TX port, only an open or close one of the CTRL port, only a reading of the time a tick. So
it is for every step of a command, the one that accepts it in IDLE among them, and for every step of the machine; a step
with reset asserted takes none. -/
def Obligations.OnlyReadsConsumeTheStream : Prop :=
  (∀ (s t : State) (i : Instr), exec i s = .next t → s.consumesTo t) ∧
    ∀ s t : State, step s = .next t →
      (s.env.rst.head? ≠ some true → s.consumesTo t) ∧
      (s.env.rst.head? = some true → t.env.rx = s.env.rx ∧ t.env.tx = s.env.tx ∧ t.env.ctrl = s.env.ctrl ∧
        t.env.ticks = s.env.ticks ∧ t.env.now = s.env.now)

/-- 00_scope.md R10, 42_timer.md R164: no event fires when time passes without a reading of it. A step that does not
wait on `Now()` does the same whatever the time, the deadline and the ticks to come. Where a byte and the deadline meet,
the byte therefore wins (41_frame_codec.md R134). -/
def Obligations.TimeIsReadOnlyByNow : Prop :=
  ∀ (s : State) (i : Instr) (dl now : Time) (ticks : List Time),
    (∀ k, s.ustate = .busy i k → readsTime k = false) →
      exec i { s with dl := dl, env := { s.env with now := now, ticks := ticks } } =
        mapNext (fun t => { t with dl := dl, env := { t.env with now := now, ticks := ticks } }) (exec i s)

/-! ## Checks before execution (spec/60_exceptions.md R222, R223) -/

/-- R90, R222, R223: from IDLE a command answers the first cause of the list that applies, having written nothing but
`rsp` and issued nothing; where none applies it takes its next state, with no error. -/
def Obligations.ChecksAreMadeInOrder : Prop :=
  ∀ (i : Instr) (s : State), i.wf = true → s.ustate = .idle →
    (∀ st, firstCause i s = some st → exec i s = .next (s.answered { status := st })) ∧
      (firstCause i s = none → ∃ t, exec i s = .next t ∧ (t.ustate = .idle → t.rsp.status = .ok))

/-- R222: CS_COMPUTE, CS_VERIFY, ENCODE, DECODE, SET_DEADLINE, IS_ELAPSED and GET_OPT_BLOCK neither read nor write the
Connection State: from IDLE and at every position they do the same in either phase, with any sequence numbers, counters
and start time. -/
def Obligations.UnitCommandsIgnoreTheSession : Prop :=
  ∀ (i : Instr) (s : State) (ph : Phase) (tq rl : SeqNum) (c : Counters) (cs : Time), unitCommand i = true →
    exec i { s with phase := ph, txSeq := tq, rxLast := rl, ctr := c, connStart := cs } =
      mapNext (fun t => { t with phase := ph, txSeq := tq, rxLast := rl, ctr := c, connStart := cs }) (exec i s)

/-! ## checksum_unit (spec/40_checksum.md) -/

/-- R110: `Checksum` is the exact sum modulo 250, in any order of the bytes, and writes only `cs_acc`. -/
def Obligations.ChecksumIsTheExactSum : Prop :=
  ∀ (s : State) (size seq : Byte) (p : List Byte),
    ((s.checksum size seq p).1.toNat = (size.toNat + seq.toNat + byteSum p) % 250) ∧
      (s.checksum size seq p).2 = { s with csAcc := (s.checksum size seq p).1 } ∧
      ∀ q : List Byte, p.Perm q → (s.checksum size seq q).1 = (s.checksum size seq p).1

/-- R111: `Verify` of a frame that stands in `rxf` is Good when it has at least 4 bytes and the checksum of its size,
seqNum and payload bytes is its last byte; it looks neither at the marker nor at what the size byte says, and writes only
`cs_acc`. -/
def Obligations.VerifyIsTheChecksumTest : Prop :=
  ∀ (s : State) (f : List Byte), s.rxf.holds 0 f = true → f.length ≤ 257 →
    ∃ acc : Byte, s.verify f.length =
      .ok (decide (4 ≤ f.length ∧ byteSum ((f.drop 1).dropLast) % 250 = (f.getLastD 0).toNat), { s with csAcc := acc })

/-- R112: sums are exact and at most 65025 over a 257-byte frame; one summed byte replaced by another goes undetected
exactly when the two differ by 250, which are the six listed pairs; every single-bit flip is detected. -/
def Obligations.ChecksumArithmeticLaws : Prop :=
  (∀ f : List Byte, f.length ≤ 257 → byteSum ((f.drop 1).dropLast) ≤ 65025) ∧
    (∀ (xs ys : List Byte) (b c : Byte),
      ((csFold 0 (xs ++ c :: ys)).toNat : Int) ≡
        (csFold 0 (xs ++ b :: ys)).toNat + ((c.toNat : Int) - b.toNat) [ZMOD 250]) ∧
    (∀ (xs ys : List Byte) (b c : Byte),
      csFold 0 (xs ++ b :: ys) = csFold 0 (xs ++ c :: ys) ↔
        b = c ∨ (b, c) ∈ [(0x00#8, 0xFA#8), (0x01#8, 0xFB#8), (0x02#8, 0xFC#8), (0x03#8, 0xFD#8), (0x04#8, 0xFE#8),
          (0x05#8, 0xFF#8)] ∨
          (c, b) ∈ [(0x00#8, 0xFA#8), (0x01#8, 0xFB#8), (0x02#8, 0xFC#8), (0x03#8, 0xFD#8), (0x04#8, 0xFE#8),
            (0x05#8, 0xFF#8)]) ∧
    ∀ (xs ys : List Byte) (b : Byte) (k : Nat), k < 8 →
      csFold 0 (xs ++ (b ^^^ BitVec.twoPow 8 k) :: ys) ≠ csFold 0 (xs ++ b :: ys)

/-- R113: CS_COMPUTE answers the checksum of whatever it is given, 0..249, and writes only `cs_acc`. -/
def Obligations.CsComputeAnswersTheChecksum : Prop :=
  ∀ (a b : Byte) (n : Len) (d : List Byte) (s : State),
    dataWf n d = true → s.ustate = .idle →
      (encodeInstr (.csCompute a b n d)).op = 0x01#8 ∧
      (n.toNat ≤ 257 → ∃ r : Byte, r.toNat = (b.toNat + a.toNat + byteSum d) % 250 ∧
        exec (.csCompute a b n d) s = .next ({ s with csAcc := r }.answered { v := r })) ∧
      (257 < n.toNat → exec (.csCompute a b n d) s = .next (s.answered { status := .badOperand }))

/-- R114: CS_VERIFY copies the frame into `rxf` and answers 1 for Good, 0 for Bad; no other byte of `rxf` and no other
register is written. -/
def Obligations.CsVerifyAnswersGoodOrBad : Prop :=
  ∀ (n : Len) (d : List Byte) (s : State), dataWf n d = true → s.ustate = .idle →
    (encodeInstr (.csVerify n d)).op = 0x02#8 ∧
    (n.toNat ≤ 257 → ∃ (m : Memory) (acc : Byte),
      exec (.csVerify n d) s = .next ({ s with rxf := m, rxfLen := n, csAcc := acc }.answered
        { v := if 4 ≤ d.length ∧ byteSum ((d.drop 1).dropLast) % 250 = (d.getLastD 0).toNat then 1 else 0 }) ∧
      m.holds 0 d = true ∧ ∀ j, d.length ≤ j → m.get? j = s.rxf.get? j) ∧
    (257 < n.toNat → exec (.csVerify n d) s = .next (s.answered { status := .badOperand }))

/-- R115: for every payload of 0 to 253 bytes and every seqNum byte, ENCODE writes a frame that CS_VERIFY finds Good. -/
def Obligations.EncodedFramesVerifyGood : Prop :=
  ∀ (s : State) (a : Byte) (n : Len) (d : List Byte), s.ustate = .idle → n.toNat = d.length → d.length ≤ 253 →
    ∃ t u : State, exec (.encode a n d) s = .next t ∧ t.rsp.status = .ok ∧ t.rsp.n.toNat = d.length + 4 ∧
      exec (.csVerify t.rsp.n t.rsp.d) t = .next u ∧ u.rsp.status = .ok ∧ u.rsp.v = 1

/-! ## frame_codec (spec/41_frame_codec.md) -/

/-- R80, R131: ENCODE answers the frame, and leaves it in `txf`; above 253 bytes it answers PAYLOAD_TOO_LARGE and writes
nothing, above 257 BAD_OPERAND. No other byte of `txf` and no other register is written. -/
def Obligations.EncodeAnswersTheFrame : Prop :=
  ∀ (a : Byte) (n : Len) (d : List Byte) (s : State), dataWf n d = true → s.ustate = .idle →
    (encodeInstr (.encode a n d)).op = 0x03#8 ∧
    (n.toNat ≤ 253 → ∃ (size c : Byte) (len : Len) (m : Memory),
      size.toNat = d.length + 2 ∧ c.toNat = (size.toNat + a.toNat + byteSum d) % 250 ∧ len.toNat = d.length + 4 ∧
      exec (.encode a n d) s = .next ({ s with txf := m, txfLen := len, csAcc := c }.answered
        { n := len, d := [s.cfg.marker, size, a] ++ d ++ [c] }) ∧
      m.holds 0 ([s.cfg.marker, size, a] ++ d ++ [c]) = true ∧ ∀ j, d.length + 4 ≤ j → m.get? j = s.txf.get? j) ∧
    (253 < n.toNat → n.toNat ≤ 257 → exec (.encode a n d) s = .next (s.answered { status := .payloadTooLarge })) ∧
    (257 < n.toNat → exec (.encode a n d) s = .next (s.answered { status := .badOperand }))

/-- R132, R135: DECODE copies the frame into `rxf` and answers the byte at offset 2 and the bytes between header and
checksum, cut to the capacity; below 4 bytes it answers FRAME_LENGTH, above 257 BAD_OPERAND. -/
def Obligations.DecodeAnswersSeqAndPayload : Prop :=
  ∀ (n : Len) (d : List Byte) (c : Len) (s : State), dataWf n d = true → s.ustate = .idle →
    (encodeInstr (.decode n d c)).op = 0x04#8 ∧
    (4 ≤ n.toNat → n.toNat ≤ 257 → ∃ (m : Memory) (len : Len),
      len.toNat = min c.toNat (n.toNat - 4) ∧
      exec (.decode n d c) s = .next ({ s with rxf := m, rxfLen := n }.answered
        { v := d.getD 2 0, n := len, d := (d.drop 3).dropLast.take c.toNat }) ∧
      m.holds 0 d = true ∧ ∀ j, d.length ≤ j → m.get? j = s.rxf.get? j) ∧
    (n.toNat < 4 → exec (.decode n d c) s = .next (s.answered { status := .frameLength })) ∧
    (257 < n.toNat → exec (.decode n d c) s = .next (s.answered { status := .badOperand }))

/-- R130, R132: DECODE of what ENCODE answers gives back the seqNum byte and the payload, cut to the capacity. -/
def Obligations.DecodeOfEncodeGivesThePayload : Prop :=
  ∀ (s : State) (a : Byte) (n : Len) (d : List Byte) (c : Len), s.ustate = .idle → n.toNat = d.length → d.length ≤ 253 →
    ∃ t u : State, exec (.encode a n d) s = .next t ∧ exec (.decode t.rsp.n t.rsp.d c) t = .next u ∧
      u.rsp.status = .ok ∧ u.rsp.v = a ∧ u.rsp.d = d.take c.toNat ∧ u.rsp.n.toNat = min c.toNat d.length

/-- R133, R136: LOCATE from acceptance to its first read: NOT_CONNECTED outside Connected; else `Now()` is read, `dl` and
`loc_max` are set, and HUNT reads. -/
def Obligations.LocateSetsItsDeadline : Prop :=
  ∀ (c : Len) (lim : Time) (s : State),
    (s.ustate = .idle → s.phase = .disconnected →
      exec (.locate c lim) s = .next (s.answered { status := .notConnected })) ∧
    (s.ustate = .idle → s.phase = .connected →
      exec (.locate c lim) s = .next ({ s with rspPending := false }.issue (.locate c lim) .locateNow .now)) ∧
    (s.ustate = .busy (.locate c lim) .locateNow →
      exec (.locate c lim) s = .next ({ s with
        dl := s.env.readNow.1 + lim
        locMax := c
        env := s.env.readNow.2 }.issue (.locate c lim) .huntRead .rxRead))

/-- R133, R134 1 and 2, for every command that runs the locate procedure: a step that does not end it. HUNT drops a byte
that is not the marker; the marker goes to offset 0; in SIZE and BODY any byte is taken as it is, the marker too, and
stored at its offset; with no byte, or a byte dropped, the deadline is tested next, and a test before the deadline goes
back to the read. -/
def Obligations.LocateTakesBytesInOrder : Prop :=
  ∀ (s : State) (i : Instr) (k : Point), usesLocate i = true → s.ustate = .busy i k →
    (∀ e, s.env.rxRead = (.empty, e) →
      (k = .huntRead → exec i s = .next ({ s with env := e }.issue i .huntNow .now)) ∧
      (k = .sizeRead → exec i s = .next ({ s with env := e }.issue i .sizeNow .now)) ∧
      (k = .bodyRead → exec i s = .next ({ s with env := e }.issue i .bodyNow .now))) ∧
    (∀ b e, s.env.rxRead = (.byte b, e) →
      (k = .huntRead → b ≠ s.cfg.marker → exec i s = .next ({ s with env := e }.issue i .huntNow .now)) ∧
      (k = .huntRead → b = s.cfg.marker →
        exec i s = .next ({ s with env := e, rxf := s.rxf.put 0 b }.issue i .sizeRead .rxRead)) ∧
      (k = .sizeRead → 0 < b.toNat → 2 + b.toNat ≤ s.locMax.toNat →
        exec i s = .next ({ s with env := e, rxf := s.rxf.put 1 b, locNeed := b, locCnt := 0 }.issue i
          .bodyRead .rxRead)) ∧
      (k = .bodyRead → s.locCnt.toNat + 1 < s.locNeed.toNat →
        exec i s = .next ({ s with
          env := e
          rxf := s.rxf.put (2 + s.locCnt.toNat) b
          locCnt := s.locCnt + 1 }.issue i .bodyRead .rxRead))) ∧
    (s.env.readNow.1 < s.dl →
      (k = .huntNow → exec i s = .next ({ s with env := s.env.readNow.2 }.issue i .huntRead .rxRead)) ∧
      (k = .sizeNow → exec i s = .next ({ s with env := s.env.readNow.2 }.issue i .sizeRead .rxRead)) ∧
      (k = .bodyNow → s.locCnt.toNat < s.locNeed.toNat →
        exec i s = .next ({ s with env := s.env.readNow.2 }.issue i .bodyRead .rxRead)))

/-- R136: how LOCATE ends: with the frame that a read completes, with TIMEOUT where the procedure finds none, with
TRANSPORT_ERROR and the transport's code. It verifies no checksum and changes no counter. -/
def Obligations.LocateAnswers : Prop :=
  ∀ (s : State) (c : Len) (lim : Time) (k : Point), s.ustate = .busy (.locate c lim) k →
    (∀ f e, s.completes k f e →
      exec (.locate c lim) s = .next ((s.located f e).answered { n := BitVec.ofNat 9 f.length, d := f })) ∧
    (∀ t, s.findsNone k t → exec (.locate c lim) s = .next (t.answered { status := .timeout })) ∧
    ∀ x e, readsStream k = true → s.env.rxRead = (.err x, e) →
      exec (.locate c lim) s = .next ({ s with env := e }.answered { status := .transportError, x := x })

/-- R134 3, 30_encoding.md R83: a located frame has 2 to 257 bytes, no more than maxSize; its first byte is the marker,
and its size byte is its length less 2. -/
def Obligations.LocatedFramesAreDelimited : Prop :=
  ∀ (s t : State) (c : Len) (lim : Time) (k : Point), s.Inv → s.ustate = .busy (.locate c lim) k →
    exec (.locate c lim) s = .next t → t.ustate = .idle → t.rsp.status = .ok →
      2 ≤ t.rsp.d.length ∧ t.rsp.d.length ≤ 257 ∧ t.rsp.d.length ≤ c.toNat ∧ t.rsp.n.toNat = t.rsp.d.length ∧
        t.rsp.d.getD 0 0 = s.cfg.marker ∧ (t.rsp.d.getD 1 0).toNat = t.rsp.d.length - 2 ∧
        t.rxf.holds 0 t.rsp.d = true ∧ t.rxfLen = t.rsp.n

/-- R134 4 and 5: the procedure gives up only at a deadline test, made after a read with no progress, that finds the
deadline reached, or on an oversize size byte: LOCATE answers TIMEOUT nowhere else. -/
def Obligations.TimeoutsComeOnlyFromTheDeadline : Prop :=
  ∀ (s t : State) (c : Len) (lim : Time) (k : Point), s.ustate = .busy (.locate c lim) k →
    exec (.locate c lim) s = .next t → t.ustate = .idle → t.rsp.status = .timeout →
      ((k = .huntNow ∨ k = .sizeNow ∨ k = .bodyNow) ∧ s.dl ≤ t.env.now) ∨
        (k = .sizeRead ∧ s.locMax.toNat < 2 + t.locNeed.toNat)

/-- 20_memory.md R61, R62, 41_frame_codec.md R133: one step of a command that runs the locate procedure writes at most
one byte of `rxf`, that of the read it made, at the offset of its place in the frame. -/
def Obligations.LocateWritesOneByteOfRxf : Prop :=
  ∀ (s t : State) (i : Instr) (k : Point), usesLocate i = true → s.ustate = .busy i k → exec i s = .next t →
    (∀ j, readsStream k = false ∨ j ≠ locateOffset k s → t.rxf.get? j = s.rxf.get? j) ∧
      ∀ b, t.rxf.get? (locateOffset k s) = some b → s.rxf.get? (locateOffset k s) ≠ some b →
        s.env.rxRead.1 = .byte b

/-- R133, R136: LOCATE finds the first frame of the stream: the bytes before the first marker are dropped, then the
size byte and as many bytes as it says are taken, while the deadline has not passed at the tests in between; what follows
the frame stays in the stream, and the session is untouched. -/
def Obligations.LocateFindsTheFirstFrame : Prop :=
  ∀ (s : State) (c : Len) (lim d0 : Time) (ds : List Time) (junk body : List Byte) (size : Byte) (rest : List RxAnswer),
    s.ustate = .idle → s.phase = .connected → s.cfg.marker ∉ junk → body.length = size.toNat →
    2 + size.toNat ≤ c.toNat → s.env.ticks = d0 :: ds → ds.length = junk.length → (ds = [] ∨ ds.sum < lim) →
    s.env.rx = (junk ++ s.cfg.marker :: size :: body).map RxAnswer.byte ++ rest →
      ∃ (fuel : Nat) (u : State), finishes (.locate c lim) fuel s = some u ∧
        u.rsp = { n := BitVec.ofNat 9 (size.toNat + 2), d := s.cfg.marker :: size :: body } ∧
        u.rspPending = true ∧ u.env.rx = rest ∧ u.dl = s.env.now + d0 + lim ∧
        u.env.now = s.env.now + d0 + ds.sum ∧ u.phase = s.phase ∧ u.txSeq = s.txSeq ∧ u.rxLast = s.rxLast ∧
        u.ctr = s.ctr ∧ u.txf = s.txf ∧ u.akf = s.akf

/-! ## timer_comparator (spec/42_timer.md) -/

/-- R160, R161: SET_DEADLINE reads the time once, sets `dl` to it plus `t`, and answers `dl`; with `t` = 0 an IS_ELAPSED
right after it answers 1; and every later locate procedure overwrites `dl`, with the time it reads plus its own limit:
LOCATE's `t`, `2 * TX_WAIT` in SEND_RELIABLE, `RX_WAIT` in the receives (41_frame_codec.md R133). -/
def Obligations.SetDeadlineSetsDl : Prop :=
  ∀ (d : Time) (s : State),
    (encodeInstr (.setDeadline d)).op = 0x06#8 ∧
    (s.ustate = .idle →
      exec (.setDeadline d) s = .next ({ s with rspPending := false }.issue (.setDeadline d) .deadlineNow .now)) ∧
    (s.ustate = .busy (.setDeadline d) .deadlineNow →
      exec (.setDeadline d) s = .next ({ s with
        dl := s.env.readNow.1 + d
        env := s.env.readNow.2 }.answered { t := s.env.readNow.1 + d })) ∧
    (s.ustate = .busy (.setDeadline 0) .deadlineNow →
      ∃ t u v, exec (.setDeadline 0) s = .next t ∧ exec .isElapsed t = .next u ∧ exec .isElapsed u = .next v ∧
        v.rsp.status = .ok ∧ v.rsp.v = 1) ∧
    (∀ c lim, s.ustate = .busy (.locate c lim) .locateNow →
      ∃ t, exec (.locate c lim) s = .next t ∧ t.dl = s.env.readNow.1 + lim) ∧
    (∀ n p, s.ustate = .busy (.sendReliable n p) .locateNow →
      ∃ t, exec (.sendReliable n p) s = .next t ∧ t.dl = s.env.readNow.1 + 2 * s.cfg.txWait) ∧
    ∀ c i, (i = .recvBasic c ∨ i = .recvReliable c) → s.ustate = .busy i .locateNow →
      ∃ t, exec i s = .next t ∧ t.dl = s.env.readNow.1 + s.cfg.rxWait

/-- R160, R162: IS_ELAPSED reads the time once and answers 1 when it is at or past `dl`, else 0; once `dl` is reached the
answer is 1, so after reset it is. -/
def Obligations.IsElapsedTestsTheDeadline : Prop :=
  ∀ s : State,
    (encodeInstr .isElapsed).op = 0x07#8 ∧
    (s.ustate = .idle →
      exec .isElapsed s = .next ({ s with rspPending := false }.issue .isElapsed .elapsedNow .now)) ∧
    (s.ustate = .busy .isElapsed .elapsedNow →
      exec .isElapsed s = .next ({ s with env := s.env.readNow.2 }.answered
        { v := if s.dl ≤ s.env.readNow.1 then 1 else 0 }) ∧
      (s.dl ≤ s.env.now ∨ s.dl = 0 → ∃ t, exec .isElapsed s = .next t ∧ t.rsp.v = 1))

/-! ## arq_fsm: the session (spec/43_arq.md) -/

/-- R171: CONNECT opens the transport with the channel id and the configured values; a failure changes nothing and is
answered with the transport's code; a success starts the session with everything initialised. -/
def Obligations.ConnectStartsASession : Prop :=
  ∀ (a : Byte) (s : State),
    (encodeInstr (.connect a)).op = 0x08#8 ∧
    (s.ustate = .idle → s.phase = .connected →
      exec (.connect a) s = .next (s.answered { status := .alreadyConnected })) ∧
    (s.ustate = .idle → s.phase = .disconnected →
      exec (.connect a) s = .next ({ s with rspPending := false }.issue (.connect a) .xOpen (.xOpen {
        channel := a, bitRate := s.cfg.openBitrate, dataBits := 8, parity := .none,
        rxToConst := s.cfg.rxToConst, rxToIntv := s.cfg.rxToIntv, errProb := s.cfg.errProb }))) ∧
    (∀ x e, s.ustate = .busy (.connect a) .xOpen → s.env.ctrlAnswer = (.err x, e) →
      exec (.connect a) s = .next ({ s with env := e }.answered { status := .transportError, x := x })) ∧
    (∀ e, s.ustate = .busy (.connect a) .xOpen → s.env.ctrlAnswer = (.ok, e) →
      exec (.connect a) s = .next ({ s with env := e, txSeq := 0, rxLast := 15, ctr := {} }.issue (.connect a)
        .connectNow .now)) ∧
    (s.ustate = .busy (.connect a) .connectNow →
      exec (.connect a) s = .next ({ s with
        env := s.env.readNow.2
        connStart := s.env.readNow.1
        phase := .connected }.answered {}))

/-- R172: DISCONNECT closes the transport, reports the elapsed time and the counters, and is Disconnected whatever the
close answered; the counters, sequence numbers and start time keep their values. -/
def Obligations.DisconnectReportsAndEndsTheSession : Prop :=
  ∀ s : State,
    (encodeInstr .disconnect).op = 0x09#8 ∧
    (s.ustate = .idle → s.phase = .disconnected →
      exec .disconnect s = .next (s.answered { status := .notConnected })) ∧
    (s.ustate = .idle → s.phase = .connected →
      exec .disconnect s = .next ({ s with rspPending := false }.issue .disconnect .xClose .xClose)) ∧
    (∀ r e, s.ustate = .busy .disconnect .xClose → s.env.ctrlAnswer = (r, e) →
      exec .disconnect s = .next ({ s with env := e }.issue .disconnect (.disconnectNow r) .now)) ∧
    ∀ (r : CtrlAnswer) (rep : Report), s.ustate = .busy .disconnect (.disconnectNow r) →
      rep = { duration := s.env.readNow.1 - s.connStart, framesSent := s.ctr.framesSent, goodRcvd := s.ctr.goodRcvd,
              badRcvd := s.ctr.badRcvd, timeouts := s.ctr.timeouts, acksSent := s.ctr.acksSent,
              naksSent := s.ctr.naksSent, acksRcvd := s.ctr.acksRcvd, naksRcvd := s.ctr.naksRcvd } →
      (r = .ok → exec .disconnect s = .next ({ s with env := s.env.readNow.2, phase := .disconnected }.answered
        { report := rep })) ∧
      ∀ x, r = .err x → exec .disconnect s = .next ({ s with env := s.env.readNow.2, phase := .disconnected }.answered
        { status := .transportError, x := x, report := rep })

/-- R179: GET_OPT_BLOCK answers the configured value, which fits a byte (00_scope.md R7), in either phase, and writes
nothing. -/
def Obligations.GetOptBlockAnswersTheConstant : Prop :=
  ∀ s : State, s.ustate = .idle →
    (encodeInstr .getOptBlock).op = 0x0F#8 ∧
    ∃ v : Byte, v.toNat = s.cfg.optBlock ∧ exec .getOptBlock s = .next (s.answered { v := v })

/-! ## arq_fsm: acknowledgements and sends -/

/-- R82, R173, R174: SEND_ACK builds the five bytes in `akf` and offers them once; a complete write is counted as ACK or
NAK by its kind, a short one answers INCOMPLETE, a failed one the transport's code. `b[7:1]` is ignored and `a` is not
reduced. -/
def Obligations.SendAckSendsFiveBytes : Prop :=
  ∀ (a : Byte) (kind : AckKind) (s : State),
    (∀ b : Byte, decodeCommand { op := 0x0E#8, a := a, b := b } =
      .ok (.sendAck a (if b.getLsbD 0 = true then .pos else .neg))) ∧
    (s.ustate = .idle → s.phase = .disconnected →
      exec (.sendAck a kind) s = .next (s.answered { status := .notConnected })) ∧
    (s.ustate = .idle → s.phase = .connected →
      ∃ (st c : Byte) (m : Memory), st = (match kind with | .pos => s.cfg.statusAck | .neg => s.cfg.statusNak) ∧
        c.toNat = (3 + a.toNat + st.toNat) % 250 ∧
        exec (.sendAck a kind) s = .next ({ s with rspPending := false, akf := m, csAcc := c }.issue (.sendAck a kind)
          .ackWrite (.txWrite [s.cfg.marker, 0x03#8, a, st, c])) ∧
        m.holds 0 [s.cfg.marker, 0x03#8, a, st, c] = true ∧ ∀ j, 5 ≤ j → m.get? j = s.akf.get? j) ∧
    (s.ustate = .busy (.sendAck a kind) .ackWrite →
      (∀ e, s.env.txWrite 5 = .ok (.count 5, e) → kind = .pos →
        exec (.sendAck a kind) s = .next ({ s with
          env := e
          ctr := { s.ctr with acksSent := s.ctr.acksSent + 1 } }.answered {})) ∧
      (∀ e, s.env.txWrite 5 = .ok (.count 5, e) → kind = .neg →
        exec (.sendAck a kind) s = .next ({ s with
          env := e
          ctr := { s.ctr with naksSent := s.ctr.naksSent + 1 } }.answered {})) ∧
      (∀ k e, s.env.txWrite 5 = .ok (.count k, e) → k < 5 →
        exec (.sendAck a kind) s = .next ({ s with env := e }.answered { status := .incomplete })) ∧
      ∀ x e, s.env.txWrite 5 = .ok (.err x, e) →
        exec (.sendAck a kind) s = .next ({ s with env := e }.answered { status := .transportError, x := x }))

/-- R175: SEND_BASIC checks, encodes with `tx_seq`, offers the frame once and counts and advances only on a complete
write. -/
def Obligations.SendBasicSendsOnce : Prop :=
  ∀ (n : Len) (d : List Byte) (s : State), dataWf n d = true →
    (encodeInstr (.sendBasic n d)).op = 0x0A#8 ∧
    (s.ustate = .idle → ∀ st, firstCause (.sendBasic n d) s = some st →
      exec (.sendBasic n d) s = .next (s.answered { status := st })) ∧
    (s.ustate = .idle → s.phase = .connected → n.toNat ≤ s.cfg.maxBlock →
      ∃ (size c : Byte) (len : Len) (m : Memory) (f : List Byte),
        size.toNat = d.length + 2 ∧ c.toNat = (size.toNat + s.txSeq.toNat + byteSum d) % 250 ∧
        len.toNat = d.length + 4 ∧ f = [s.cfg.marker, size, s.txSeq.setWidth 8] ++ d ++ [c] ∧
        exec (.sendBasic n d) s = .next ({ s with rspPending := false, txf := m, txfLen := len, csAcc := c }.issue
          (.sendBasic n d) .frameWrite (.txWrite f)) ∧
        m.holds 0 f = true ∧ ∀ j, d.length + 4 ≤ j → m.get? j = s.txf.get? j) ∧
    (s.ustate = .busy (.sendBasic n d) .frameWrite →
      (∀ e, s.env.txWrite s.txfLen.toNat = .ok (.count s.txfLen.toNat, e) →
        exec (.sendBasic n d) s = .next ({ s with
          env := e
          txSeq := s.txSeq + 1
          ctr := { s.ctr with framesSent := s.ctr.framesSent + 1 } }.answered {})) ∧
      (∀ k e, s.env.txWrite s.txfLen.toNat = .ok (.count k, e) → k < s.txfLen.toNat →
        exec (.sendBasic n d) s = .next ({ s with env := e }.answered { status := .incomplete })) ∧
      ∀ x e, s.env.txWrite s.txfLen.toNat = .ok (.err x, e) →
        exec (.sendBasic n d) s = .next ({ s with env := e }.answered { status := .transportError, x := x }))

/-- R176: SEND_RELIABLE checks, encodes once with `tx_seq`, and makes its first attempt; a complete write is counted and
the response wait begins; a short or failed write aborts without retry. -/
def Obligations.SendReliableTransmits : Prop :=
  ∀ (n : Len) (d : List Byte) (s : State), dataWf n d = true →
    (s.ustate = .idle → s.phase = .connected → n.toNat ≤ s.cfg.maxBlock →
      ∃ (size c : Byte) (len : Len) (m : Memory) (f : List Byte),
        size.toNat = d.length + 2 ∧ c.toNat = (size.toNat + s.txSeq.toNat + byteSum d) % 250 ∧
        len.toNat = d.length + 4 ∧ f = [s.cfg.marker, size, s.txSeq.setWidth 8] ++ d ++ [c] ∧
        exec (.sendReliable n d) s = .next ({ s with
          rspPending := false, txf := m, txfLen := len, csAcc := c, tries := 1 }.issue
            (.sendReliable n d) .frameWrite (.txWrite f)) ∧
        m.holds 0 f = true ∧ ∀ j, d.length + 4 ≤ j → m.get? j = s.txf.get? j) ∧
    (s.ustate = .busy (.sendReliable n d) .frameWrite →
      (∀ e, s.env.txWrite s.txfLen.toNat = .ok (.count s.txfLen.toNat, e) →
        exec (.sendReliable n d) s = .next ({ s with
          env := e
          ctr := { s.ctr with framesSent := s.ctr.framesSent + 1 } }.issue (.sendReliable n d) .locateNow .now)) ∧
      (∀ k e, s.env.txWrite s.txfLen.toNat = .ok (.count k, e) → k < s.txfLen.toNat →
        exec (.sendReliable n d) s = .next ({ s with env := e }.answered { status := .incomplete })) ∧
      ∀ x e, s.env.txWrite s.txfLen.toNat = .ok (.err x, e) →
        exec (.sendReliable n d) s = .next ({ s with env := e }.answered { status := .transportError, x := x })) ∧
    (s.ustate = .busy (.sendReliable n d) .locateNow →
      exec (.sendReliable n d) s = .next ({ s with
        dl := s.env.readNow.1 + 2 * s.cfg.txWait
        locMax := 257
        env := s.env.readNow.2 }.issue (.sendReliable n d) .huntRead .rxRead))

/-- R176: a checksum-good response is positive when its first payload byte is STATUS_ACK; positive and with the sequence
number sent, it is counted, `tx_seq` advances and the answer is OK. -/
def Obligations.SendReliableAcceptsTheAcknowledgement : Prop :=
  ∀ (n : Len) (d : List Byte) (s : State) (k : Point) (f : List Byte) (e : Env),
    s.ustate = .busy (.sendReliable n d) k → s.completes k f e → 4 ≤ f.length →
    byteSum ((f.drop 1).dropLast) % 250 = (f.getLastD 0).toNat →
    ((f.drop 3).dropLast).take 1 = [s.cfg.statusAck] → f.getD 2 0 = s.txSeq.setWidth 8 →
      ∃ acc : Byte, exec (.sendReliable n d) s = .next ({ s.located f e with
        csAcc := acc
        txSeq := s.txSeq + 1
        ctr := { s.ctr with acksRcvd := s.ctr.acksRcvd + 1 } }.answered {})

/-- R176: a response that is no match is counted (bad, positive for another number, or not positive: an empty payload
and a data frame are read the same way) and retried with the same `txf` bytes, or GIVE_UP after the last attempt; so is a
wait that finds no frame. `tx_seq` stays. -/
def Obligations.SendReliableRetriesTheSameFrame : Prop :=
  ∀ (n : Len) (d : List Byte) (s t : State) (k : Point) (c : Counter), s.Inv → s.ustate = .busy (.sendReliable n d) k →
    ((c = .timeouts ∧ s.findsNone k t) ∨
      ∃ f e, s.completes k f e ∧ (∃ acc, t = { s.located f e with csAcc := acc }) ∧
        ((c = .badRcvd ∧ ¬(4 ≤ f.length ∧ byteSum ((f.drop 1).dropLast) % 250 = (f.getLastD 0).toNat)) ∨
          4 ≤ f.length ∧ byteSum ((f.drop 1).dropLast) % 250 = (f.getLastD 0).toNat ∧
            ((c = .acksRcvd ∧ ((f.drop 3).dropLast).take 1 = [s.cfg.statusAck] ∧ f.getD 2 0 ≠ s.txSeq.setWidth 8) ∨
              (c = .naksRcvd ∧ ((f.drop 3).dropLast).take 1 ≠ [s.cfg.statusAck])))) →
      ∃ acc : Byte,
        (s.tries < s.cfg.maxTries → exec (.sendReliable n d) s = .next ({ t with
          csAcc := acc
          ctr := s.ctr.bump c
          tries := s.tries + 1 }.issue (.sendReliable n d) .frameWrite
            (.txWrite (frameBytes s.cfg.marker (zext8 s.txSeq) d)))) ∧
        (s.cfg.maxTries ≤ s.tries → exec (.sendReliable n d) s = .next ({ t with
          csAcc := acc
          ctr := s.ctr.bump c }.answered { status := .giveUp }))

/-- R176, R221: an `Err(x)` of the transport during the wait of SEND_RELIABLE, RECV_BASIC or RECV_RELIABLE aborts the
command at once with the transport's code, and nothing else changes. -/
def Obligations.TransportErrorsAbortTheLoops : Prop :=
  ∀ (s : State) (i : Instr) (k : Point) (x : Int) (e : Env), usesLocate i = true → s.ustate = .busy i k →
    readsStream k = true → s.env.rxRead = (.err x, e) →
      exec i s = .next ({ s with env := e }.answered { status := .transportError, x := x })

/-- R176, 10_state.md R29: whatever the environment answers, a run of SEND_RELIABLE writes nothing but the one frame it
encoded, at most MAX_TRIES times, and exactly MAX_TRIES times where it gives up; it leaves `rx_last` and `phase` alone and
advances `tx_seq` only on OK. -/
def Obligations.RetryBound : Prop :=
  ∀ (n : Len) (d : List Byte) (s u : State) (fuel : Nat), dataWf n d = true → s.ustate = .idle →
    finishes (.sendReliable n d) fuel s = some u →
      ∃ m : Nat, m ≤ s.cfg.maxTries ∧
        writesOf u.env.log = writesOf s.env.log ++ List.replicate m (frameBytes s.cfg.marker (zext8 s.txSeq) d) ∧
        (u.rsp.status = .giveUp → m = s.cfg.maxTries) ∧ (u.rsp.status = .ok → 1 ≤ m ∧ u.txSeq = s.txSeq + 1) ∧
        (u.rsp.status ≠ .ok → u.txSeq = s.txSeq) ∧ u.rxLast = s.rxLast ∧ u.phase = s.phase

/-- R176, R170 (the clean exchange): a frame written completely, followed by a positive acknowledgement with its number
in the stream, ends SEND_RELIABLE with OK after one transmission. -/
def Obligations.CleanExchange : Prop :=
  ∀ (n : Len) (d : List Byte) (s : State) (d0 : Time) (ds : List Time) (rest : List RxAnswer) (txs : List TxAnswer),
    n.toNat = d.length → s.ustate = .idle → s.phase = .connected → d.length ≤ s.cfg.maxBlock →
    s.env.tx = .count (d.length + 4) :: txs → s.env.ticks = d0 :: ds →
    s.env.rx = (ackBytes s.cfg .pos (zext8 s.txSeq)).map RxAnswer.byte ++ rest →
      ∃ (fuel : Nat) (u : State), finishes (.sendReliable n d) fuel s = some u ∧ u.rsp = {} ∧ u.rspPending = true ∧
        u.txSeq = s.txSeq + 1 ∧ u.rxLast = s.rxLast ∧ u.env.rx = rest ∧ u.env.tx = txs ∧
        u.ctr = { s.ctr with framesSent := s.ctr.framesSent + 1, acksRcvd := s.ctr.acksRcvd + 1 } ∧
        writesOf u.env.log = writesOf s.env.log ++ [frameBytes s.cfg.marker (zext8 s.txSeq) d]

/-! ## arq_fsm: receives -/

/-- R177, R178: a receive from acceptance to its first read: NOT_CONNECTED outside Connected; else the first attempt's
wait begins with RX_WAIT, RECV_RELIABLE having computed the expected number once. -/
def Obligations.ReceivesBeginToWait : Prop :=
  ∀ (c : Len) (s : State),
    (s.ustate = .idle → s.phase = .disconnected →
      exec (.recvBasic c) s = .next (s.answered { status := .notConnected }) ∧
      exec (.recvReliable c) s = .next (s.answered { status := .notConnected })) ∧
    (s.ustate = .idle → s.phase = .connected →
      exec (.recvBasic c) s =
        .next ({ s with rspPending := false, tries := 1 }.issue (.recvBasic c) .locateNow .now) ∧
      exec (.recvReliable c) s =
        .next ({ s with rspPending := false, tries := 1, expected := s.rxLast + 1 }.issue (.recvReliable c)
          .locateNow .now)) ∧
    ∀ i, (i = .recvBasic c ∨ i = .recvReliable c) → s.ustate = .busy i .locateNow →
      exec i s = .next ({ s with
        dl := s.env.readNow.1 + s.cfg.rxWait
        locMax := 257
        env := s.env.readNow.2 }.issue i .huntRead .rxRead)

/-- R177, R178: a wait that finds no frame is counted, sends nothing, and is followed by the next attempt, or by GIVE_UP
after the last. -/
def Obligations.ReceiveTimeoutsAreCountedAndRetried : Prop :=
  ∀ (c : Len) (i : Instr) (s t : State) (k : Point), (i = .recvBasic c ∨ i = .recvReliable c) →
    s.ustate = .busy i k → s.findsNone k t →
      (s.tries < s.cfg.maxTries → exec i s = .next ({ t with
        ctr := { s.ctr with timeouts := s.ctr.timeouts + 1 }
        tries := s.tries + 1 }.issue i .locateNow .now)) ∧
      (s.cfg.maxTries ≤ s.tries → exec i s = .next ({ t with
        ctr := { s.ctr with timeouts := s.ctr.timeouts + 1 } }.answered { status := .giveUp }))

/-- R177: RECV_BASIC answers a checksum-good frame with its payload cut to the capacity, whatever its sequence number,
and a corrupted one with the sentinel cut to the capacity; both with OK, sending nothing and leaving `rx_last`. -/
def Obligations.RecvBasicAnswersPayloadOrSentinel : Prop :=
  ∀ (c : Len) (s : State) (k : Point) (f : List Byte) (e : Env), s.ustate = .busy (.recvBasic c) k →
    s.completes k f e →
      ∃ acc : Byte,
        (4 ≤ f.length ∧ byteSum ((f.drop 1).dropLast) % 250 = (f.getLastD 0).toNat →
          exec (.recvBasic c) s = .next ({ s.located f e with
            csAcc := acc
            ctr := { s.ctr with goodRcvd := s.ctr.goodRcvd + 1 } }.answered
              { n := BitVec.ofNat 9 (min c.toNat (f.length - 4)), d := ((f.drop 3).dropLast).take c.toNat })) ∧
        (¬(4 ≤ f.length ∧ byteSum ((f.drop 1).dropLast) % 250 = (f.getLastD 0).toNat) →
          exec (.recvBasic c) s = .next ({ s.located f e with
            csAcc := acc
            ctr := { s.ctr with badRcvd := s.ctr.badRcvd + 1 } }.answered
              { n := BitVec.ofNat 9 (min c.toNat s.cfg.corruptSentinel.length)
                d := s.cfg.corruptSentinel.take c.toNat }))

/-- R178: what RECV_RELIABLE does with a located frame. Good and with the expected number: it offers a positive
acknowledgement of it, and holds the payload. Good with any other number, the duplicate of the last accepted block among
them, or bad: it offers a negative one with the number that was received (0 where the frame has no byte there). No byte
is delivered and `rx_last` stays. -/
def Obligations.RecvReliableAnswersEveryFrame : Prop :=
  ∀ (c : Len) (s : State) (k : Point) (f : List Byte) (e : Env), s.Inv → s.ustate = .busy (.recvReliable c) k →
    s.completes k f e →
      ∃ (m : Memory) (acc : Byte), (∀ j, 5 ≤ j → m.get? j = s.akf.get? j) ∧
        (4 ≤ f.length ∧ byteSum ((f.drop 1).dropLast) % 250 = (f.getLastD 0).toNat →
          f.getD 2 0 = (s.rxLast + 1).setWidth 8 →
            m.holds 0 (ackBytes s.cfg .pos (f.getD 2 0)) = true ∧
            exec (.recvReliable c) s = .next ({ s.located f e with
              akf := m
              csAcc := acc
              ctr := { s.ctr with goodRcvd := s.ctr.goodRcvd + 1 } }.issue (.recvReliable c)
                (.acceptWrite (f.getD 2 0) (((f.drop 3).dropLast).take c.toNat))
                (.txWrite (ackBytes s.cfg .pos (f.getD 2 0))))) ∧
        (4 ≤ f.length ∧ byteSum ((f.drop 1).dropLast) % 250 = (f.getLastD 0).toNat →
          f.getD 2 0 ≠ (s.rxLast + 1).setWidth 8 →
            m.holds 0 (ackBytes s.cfg .neg (f.getD 2 0)) = true ∧
            exec (.recvReliable c) s = .next ({ s.located f e with
              akf := m
              csAcc := acc
              ctr := { s.ctr with goodRcvd := s.ctr.goodRcvd + 1 } }.issue (.recvReliable c) .ackWrite
                (.txWrite (ackBytes s.cfg .neg (f.getD 2 0))))) ∧
        (¬(4 ≤ f.length ∧ byteSum ((f.drop 1).dropLast) % 250 = (f.getLastD 0).toNat) →
            m.holds 0 (ackBytes s.cfg .neg (f.getD 2 0)) = true ∧
            exec (.recvReliable c) s = .next ({ s.located f e with
              akf := m
              csAcc := acc
              ctr := { s.ctr with badRcvd := s.ctr.badRcvd + 1 } }.issue (.recvReliable c) .ackWrite
                (.txWrite (ackBytes s.cfg .neg (f.getD 2 0)))))

/-- R178: only a completely written ACK accepts the frame: it is counted, `rx_last` becomes the accepted number and the
payload is answered. A complete NAK is counted and the next attempt begins, or GIVE_UP. A short or failed write of either
aborts, and `rx_last` stays. -/
def Obligations.RecvReliableAcceptsAfterACompleteAck : Prop :=
  ∀ (c : Len) (s : State) (k : Point), s.ustate = .busy (.recvReliable c) k →
    (∀ seq p e, k = .acceptWrite seq p → s.env.txWrite 5 = .ok (.count 5, e) →
      exec (.recvReliable c) s = .next ({ s with
        env := e
        rxLast := seq.setWidth 4
        ctr := { s.ctr with acksSent := s.ctr.acksSent + 1 } }.answered { n := BitVec.ofNat 9 p.length, d := p })) ∧
    (∀ e, k = .ackWrite → s.env.txWrite 5 = .ok (.count 5, e) →
      (s.tries < s.cfg.maxTries → exec (.recvReliable c) s = .next ({ s with
        env := e
        ctr := { s.ctr with naksSent := s.ctr.naksSent + 1 }
        tries := s.tries + 1 }.issue (.recvReliable c) .locateNow .now)) ∧
      (s.cfg.maxTries ≤ s.tries → exec (.recvReliable c) s = .next ({ s with
        env := e
        ctr := { s.ctr with naksSent := s.ctr.naksSent + 1 } }.answered { status := .giveUp }))) ∧
    ((k = .ackWrite ∨ ∃ seq p, k = .acceptWrite seq p) →
      (∀ j e, s.env.txWrite 5 = .ok (.count j, e) → j < 5 →
        exec (.recvReliable c) s = .next ({ s with env := e }.answered { status := .incomplete })) ∧
      ∀ x e, s.env.txWrite 5 = .ok (.err x, e) →
        exec (.recvReliable c) s = .next ({ s with env := e }.answered { status := .transportError, x := x }))

/-- R178, R181: whatever the environment answers, a run of RECV_RELIABLE delivers a payload only with the number after
the last accepted one, and only after that number's ACK, the last frame it writes; every frame it writes before is a NAK.
On any other outcome `rx_last` stays, so the same frame is not delivered twice. -/
def Obligations.ReceiveDeliversOnlyTheNextBlock : Prop :=
  ∀ (c : Len) (s u : State) (fuel : Nat), s.ustate = .idle → finishes (.recvReliable c) fuel s = some u →
    u.txSeq = s.txSeq ∧ u.phase = s.phase ∧
      (u.rsp.status ≠ .ok → u.rxLast = s.rxLast ∧ u.rsp.d = []) ∧
      (u.rsp.status = .ok → u.rxLast = s.rxLast + 1 ∧ u.rsp.d.length ≤ c.toNat ∧
        ∃ naks : List Byte, naks.length < s.cfg.maxTries ∧
          writesOf u.env.log = writesOf s.env.log ++ naks.map (ackBytes s.cfg .neg) ++
            [ackBytes s.cfg .pos (zext8 (s.rxLast + 1))])

/-- R178 (the receiver of the clean exchange): the expected frame in the stream, with its acknowledgement written
completely, is delivered, cut to the capacity. -/
def Obligations.ReceiveDeliversTheExpectedFrame : Prop :=
  ∀ (c : Len) (p : List Byte) (s : State) (d0 : Time) (ds : List Time) (rest : List RxAnswer) (txs : List TxAnswer),
    s.ustate = .idle → s.phase = .connected → p.length ≤ 253 → s.env.tx = .count 5 :: txs → s.env.ticks = d0 :: ds →
    s.env.rx = (frameBytes s.cfg.marker (zext8 (s.rxLast + 1)) p).map RxAnswer.byte ++ rest →
      ∃ (fuel : Nat) (u : State), finishes (.recvReliable c) fuel s = some u ∧
        u.rsp = { n := BitVec.ofNat 9 (min c.toNat p.length), d := p.take c.toNat } ∧ u.rspPending = true ∧
        u.rxLast = s.rxLast + 1 ∧ u.txSeq = s.txSeq ∧ u.env.rx = rest ∧ u.env.tx = txs ∧
        u.ctr = { s.ctr with goodRcvd := s.ctr.goodRcvd + 1, acksSent := s.ctr.acksSent + 1 } ∧
        writesOf u.env.log = writesOf s.env.log ++ [ackBytes s.cfg .pos (zext8 (s.rxLast + 1))]
end

