-- ==== Sys2Proof/Laws/State.lean ====
section
/-! SUPPORT. The small lemmas of the register setters: one for each setter and each register, true by unfolding, so that
no later proof unfolds a record update. -/

namespace Sys2Proof.Machine

/-! ## setUstate -/

@[simp] theorem State.setUstate_cfg (s : State) (x) : (s.setUstate x).cfg = s.cfg := rfl
@[simp] theorem State.setUstate_ustate (s : State) (x) : (s.setUstate x).ustate = x := rfl
@[simp] theorem State.setUstate_phase (s : State) (x) : (s.setUstate x).phase = s.phase := rfl
@[simp] theorem State.setUstate_txSeq (s : State) (x) : (s.setUstate x).txSeq = s.txSeq := rfl
@[simp] theorem State.setUstate_rxLast (s : State) (x) : (s.setUstate x).rxLast = s.rxLast := rfl
@[simp] theorem State.setUstate_ctr (s : State) (x) : (s.setUstate x).ctr = s.ctr := rfl
@[simp] theorem State.setUstate_connStart (s : State) (x) : (s.setUstate x).connStart = s.connStart := rfl
@[simp] theorem State.setUstate_dl (s : State) (x) : (s.setUstate x).dl = s.dl := rfl
@[simp] theorem State.setUstate_txf (s : State) (x) : (s.setUstate x).txf = s.txf := rfl
@[simp] theorem State.setUstate_txfLen (s : State) (x) : (s.setUstate x).txfLen = s.txfLen := rfl
@[simp] theorem State.setUstate_rxf (s : State) (x) : (s.setUstate x).rxf = s.rxf := rfl
@[simp] theorem State.setUstate_rxfLen (s : State) (x) : (s.setUstate x).rxfLen = s.rxfLen := rfl
@[simp] theorem State.setUstate_akf (s : State) (x) : (s.setUstate x).akf = s.akf := rfl
@[simp] theorem State.setUstate_csAcc (s : State) (x) : (s.setUstate x).csAcc = s.csAcc := rfl
@[simp] theorem State.setUstate_locNeed (s : State) (x) : (s.setUstate x).locNeed = s.locNeed := rfl
@[simp] theorem State.setUstate_locCnt (s : State) (x) : (s.setUstate x).locCnt = s.locCnt := rfl
@[simp] theorem State.setUstate_locMax (s : State) (x) : (s.setUstate x).locMax = s.locMax := rfl
@[simp] theorem State.setUstate_tries (s : State) (x) : (s.setUstate x).tries = s.tries := rfl
@[simp] theorem State.setUstate_expected (s : State) (x) : (s.setUstate x).expected = s.expected := rfl
@[simp] theorem State.setUstate_rsp (s : State) (x) : (s.setUstate x).rsp = s.rsp := rfl
@[simp] theorem State.setUstate_rspPending (s : State) (x) : (s.setUstate x).rspPending = s.rspPending := rfl
@[simp] theorem State.setUstate_env (s : State) (x) : (s.setUstate x).env = s.env := rfl

/-! ## setPhase -/

@[simp] theorem State.setPhase_cfg (s : State) (x) : (s.setPhase x).cfg = s.cfg := rfl
@[simp] theorem State.setPhase_ustate (s : State) (x) : (s.setPhase x).ustate = s.ustate := rfl
@[simp] theorem State.setPhase_phase (s : State) (x) : (s.setPhase x).phase = x := rfl
@[simp] theorem State.setPhase_txSeq (s : State) (x) : (s.setPhase x).txSeq = s.txSeq := rfl
@[simp] theorem State.setPhase_rxLast (s : State) (x) : (s.setPhase x).rxLast = s.rxLast := rfl
@[simp] theorem State.setPhase_ctr (s : State) (x) : (s.setPhase x).ctr = s.ctr := rfl
@[simp] theorem State.setPhase_connStart (s : State) (x) : (s.setPhase x).connStart = s.connStart := rfl
@[simp] theorem State.setPhase_dl (s : State) (x) : (s.setPhase x).dl = s.dl := rfl
@[simp] theorem State.setPhase_txf (s : State) (x) : (s.setPhase x).txf = s.txf := rfl
@[simp] theorem State.setPhase_txfLen (s : State) (x) : (s.setPhase x).txfLen = s.txfLen := rfl
@[simp] theorem State.setPhase_rxf (s : State) (x) : (s.setPhase x).rxf = s.rxf := rfl
@[simp] theorem State.setPhase_rxfLen (s : State) (x) : (s.setPhase x).rxfLen = s.rxfLen := rfl
@[simp] theorem State.setPhase_akf (s : State) (x) : (s.setPhase x).akf = s.akf := rfl
@[simp] theorem State.setPhase_csAcc (s : State) (x) : (s.setPhase x).csAcc = s.csAcc := rfl
@[simp] theorem State.setPhase_locNeed (s : State) (x) : (s.setPhase x).locNeed = s.locNeed := rfl
@[simp] theorem State.setPhase_locCnt (s : State) (x) : (s.setPhase x).locCnt = s.locCnt := rfl
@[simp] theorem State.setPhase_locMax (s : State) (x) : (s.setPhase x).locMax = s.locMax := rfl
@[simp] theorem State.setPhase_tries (s : State) (x) : (s.setPhase x).tries = s.tries := rfl
@[simp] theorem State.setPhase_expected (s : State) (x) : (s.setPhase x).expected = s.expected := rfl
@[simp] theorem State.setPhase_rsp (s : State) (x) : (s.setPhase x).rsp = s.rsp := rfl
@[simp] theorem State.setPhase_rspPending (s : State) (x) : (s.setPhase x).rspPending = s.rspPending := rfl
@[simp] theorem State.setPhase_env (s : State) (x) : (s.setPhase x).env = s.env := rfl

/-! ## setTxSeq -/

@[simp] theorem State.setTxSeq_cfg (s : State) (x) : (s.setTxSeq x).cfg = s.cfg := rfl
@[simp] theorem State.setTxSeq_ustate (s : State) (x) : (s.setTxSeq x).ustate = s.ustate := rfl
@[simp] theorem State.setTxSeq_phase (s : State) (x) : (s.setTxSeq x).phase = s.phase := rfl
@[simp] theorem State.setTxSeq_txSeq (s : State) (x) : (s.setTxSeq x).txSeq = x := rfl
@[simp] theorem State.setTxSeq_rxLast (s : State) (x) : (s.setTxSeq x).rxLast = s.rxLast := rfl
@[simp] theorem State.setTxSeq_ctr (s : State) (x) : (s.setTxSeq x).ctr = s.ctr := rfl
@[simp] theorem State.setTxSeq_connStart (s : State) (x) : (s.setTxSeq x).connStart = s.connStart := rfl
@[simp] theorem State.setTxSeq_dl (s : State) (x) : (s.setTxSeq x).dl = s.dl := rfl
@[simp] theorem State.setTxSeq_txf (s : State) (x) : (s.setTxSeq x).txf = s.txf := rfl
@[simp] theorem State.setTxSeq_txfLen (s : State) (x) : (s.setTxSeq x).txfLen = s.txfLen := rfl
@[simp] theorem State.setTxSeq_rxf (s : State) (x) : (s.setTxSeq x).rxf = s.rxf := rfl
@[simp] theorem State.setTxSeq_rxfLen (s : State) (x) : (s.setTxSeq x).rxfLen = s.rxfLen := rfl
@[simp] theorem State.setTxSeq_akf (s : State) (x) : (s.setTxSeq x).akf = s.akf := rfl
@[simp] theorem State.setTxSeq_csAcc (s : State) (x) : (s.setTxSeq x).csAcc = s.csAcc := rfl
@[simp] theorem State.setTxSeq_locNeed (s : State) (x) : (s.setTxSeq x).locNeed = s.locNeed := rfl
@[simp] theorem State.setTxSeq_locCnt (s : State) (x) : (s.setTxSeq x).locCnt = s.locCnt := rfl
@[simp] theorem State.setTxSeq_locMax (s : State) (x) : (s.setTxSeq x).locMax = s.locMax := rfl
@[simp] theorem State.setTxSeq_tries (s : State) (x) : (s.setTxSeq x).tries = s.tries := rfl
@[simp] theorem State.setTxSeq_expected (s : State) (x) : (s.setTxSeq x).expected = s.expected := rfl
@[simp] theorem State.setTxSeq_rsp (s : State) (x) : (s.setTxSeq x).rsp = s.rsp := rfl
@[simp] theorem State.setTxSeq_rspPending (s : State) (x) : (s.setTxSeq x).rspPending = s.rspPending := rfl
@[simp] theorem State.setTxSeq_env (s : State) (x) : (s.setTxSeq x).env = s.env := rfl

/-! ## setRxLast -/

@[simp] theorem State.setRxLast_cfg (s : State) (x) : (s.setRxLast x).cfg = s.cfg := rfl
@[simp] theorem State.setRxLast_ustate (s : State) (x) : (s.setRxLast x).ustate = s.ustate := rfl
@[simp] theorem State.setRxLast_phase (s : State) (x) : (s.setRxLast x).phase = s.phase := rfl
@[simp] theorem State.setRxLast_txSeq (s : State) (x) : (s.setRxLast x).txSeq = s.txSeq := rfl
@[simp] theorem State.setRxLast_rxLast (s : State) (x) : (s.setRxLast x).rxLast = x := rfl
@[simp] theorem State.setRxLast_ctr (s : State) (x) : (s.setRxLast x).ctr = s.ctr := rfl
@[simp] theorem State.setRxLast_connStart (s : State) (x) : (s.setRxLast x).connStart = s.connStart := rfl
@[simp] theorem State.setRxLast_dl (s : State) (x) : (s.setRxLast x).dl = s.dl := rfl
@[simp] theorem State.setRxLast_txf (s : State) (x) : (s.setRxLast x).txf = s.txf := rfl
@[simp] theorem State.setRxLast_txfLen (s : State) (x) : (s.setRxLast x).txfLen = s.txfLen := rfl
@[simp] theorem State.setRxLast_rxf (s : State) (x) : (s.setRxLast x).rxf = s.rxf := rfl
@[simp] theorem State.setRxLast_rxfLen (s : State) (x) : (s.setRxLast x).rxfLen = s.rxfLen := rfl
@[simp] theorem State.setRxLast_akf (s : State) (x) : (s.setRxLast x).akf = s.akf := rfl
@[simp] theorem State.setRxLast_csAcc (s : State) (x) : (s.setRxLast x).csAcc = s.csAcc := rfl
@[simp] theorem State.setRxLast_locNeed (s : State) (x) : (s.setRxLast x).locNeed = s.locNeed := rfl
@[simp] theorem State.setRxLast_locCnt (s : State) (x) : (s.setRxLast x).locCnt = s.locCnt := rfl
@[simp] theorem State.setRxLast_locMax (s : State) (x) : (s.setRxLast x).locMax = s.locMax := rfl
@[simp] theorem State.setRxLast_tries (s : State) (x) : (s.setRxLast x).tries = s.tries := rfl
@[simp] theorem State.setRxLast_expected (s : State) (x) : (s.setRxLast x).expected = s.expected := rfl
@[simp] theorem State.setRxLast_rsp (s : State) (x) : (s.setRxLast x).rsp = s.rsp := rfl
@[simp] theorem State.setRxLast_rspPending (s : State) (x) : (s.setRxLast x).rspPending = s.rspPending := rfl
@[simp] theorem State.setRxLast_env (s : State) (x) : (s.setRxLast x).env = s.env := rfl

/-! ## setCtr -/

@[simp] theorem State.setCtr_cfg (s : State) (x) : (s.setCtr x).cfg = s.cfg := rfl
@[simp] theorem State.setCtr_ustate (s : State) (x) : (s.setCtr x).ustate = s.ustate := rfl
@[simp] theorem State.setCtr_phase (s : State) (x) : (s.setCtr x).phase = s.phase := rfl
@[simp] theorem State.setCtr_txSeq (s : State) (x) : (s.setCtr x).txSeq = s.txSeq := rfl
@[simp] theorem State.setCtr_rxLast (s : State) (x) : (s.setCtr x).rxLast = s.rxLast := rfl
@[simp] theorem State.setCtr_ctr (s : State) (x) : (s.setCtr x).ctr = x := rfl
@[simp] theorem State.setCtr_connStart (s : State) (x) : (s.setCtr x).connStart = s.connStart := rfl
@[simp] theorem State.setCtr_dl (s : State) (x) : (s.setCtr x).dl = s.dl := rfl
@[simp] theorem State.setCtr_txf (s : State) (x) : (s.setCtr x).txf = s.txf := rfl
@[simp] theorem State.setCtr_txfLen (s : State) (x) : (s.setCtr x).txfLen = s.txfLen := rfl
@[simp] theorem State.setCtr_rxf (s : State) (x) : (s.setCtr x).rxf = s.rxf := rfl
@[simp] theorem State.setCtr_rxfLen (s : State) (x) : (s.setCtr x).rxfLen = s.rxfLen := rfl
@[simp] theorem State.setCtr_akf (s : State) (x) : (s.setCtr x).akf = s.akf := rfl
@[simp] theorem State.setCtr_csAcc (s : State) (x) : (s.setCtr x).csAcc = s.csAcc := rfl
@[simp] theorem State.setCtr_locNeed (s : State) (x) : (s.setCtr x).locNeed = s.locNeed := rfl
@[simp] theorem State.setCtr_locCnt (s : State) (x) : (s.setCtr x).locCnt = s.locCnt := rfl
@[simp] theorem State.setCtr_locMax (s : State) (x) : (s.setCtr x).locMax = s.locMax := rfl
@[simp] theorem State.setCtr_tries (s : State) (x) : (s.setCtr x).tries = s.tries := rfl
@[simp] theorem State.setCtr_expected (s : State) (x) : (s.setCtr x).expected = s.expected := rfl
@[simp] theorem State.setCtr_rsp (s : State) (x) : (s.setCtr x).rsp = s.rsp := rfl
@[simp] theorem State.setCtr_rspPending (s : State) (x) : (s.setCtr x).rspPending = s.rspPending := rfl
@[simp] theorem State.setCtr_env (s : State) (x) : (s.setCtr x).env = s.env := rfl

/-! ## setConnStart -/

@[simp] theorem State.setConnStart_cfg (s : State) (x) : (s.setConnStart x).cfg = s.cfg := rfl
@[simp] theorem State.setConnStart_ustate (s : State) (x) : (s.setConnStart x).ustate = s.ustate := rfl
@[simp] theorem State.setConnStart_phase (s : State) (x) : (s.setConnStart x).phase = s.phase := rfl
@[simp] theorem State.setConnStart_txSeq (s : State) (x) : (s.setConnStart x).txSeq = s.txSeq := rfl
@[simp] theorem State.setConnStart_rxLast (s : State) (x) : (s.setConnStart x).rxLast = s.rxLast := rfl
@[simp] theorem State.setConnStart_ctr (s : State) (x) : (s.setConnStart x).ctr = s.ctr := rfl
@[simp] theorem State.setConnStart_connStart (s : State) (x) : (s.setConnStart x).connStart = x := rfl
@[simp] theorem State.setConnStart_dl (s : State) (x) : (s.setConnStart x).dl = s.dl := rfl
@[simp] theorem State.setConnStart_txf (s : State) (x) : (s.setConnStart x).txf = s.txf := rfl
@[simp] theorem State.setConnStart_txfLen (s : State) (x) : (s.setConnStart x).txfLen = s.txfLen := rfl
@[simp] theorem State.setConnStart_rxf (s : State) (x) : (s.setConnStart x).rxf = s.rxf := rfl
@[simp] theorem State.setConnStart_rxfLen (s : State) (x) : (s.setConnStart x).rxfLen = s.rxfLen := rfl
@[simp] theorem State.setConnStart_akf (s : State) (x) : (s.setConnStart x).akf = s.akf := rfl
@[simp] theorem State.setConnStart_csAcc (s : State) (x) : (s.setConnStart x).csAcc = s.csAcc := rfl
@[simp] theorem State.setConnStart_locNeed (s : State) (x) : (s.setConnStart x).locNeed = s.locNeed := rfl
@[simp] theorem State.setConnStart_locCnt (s : State) (x) : (s.setConnStart x).locCnt = s.locCnt := rfl
@[simp] theorem State.setConnStart_locMax (s : State) (x) : (s.setConnStart x).locMax = s.locMax := rfl
@[simp] theorem State.setConnStart_tries (s : State) (x) : (s.setConnStart x).tries = s.tries := rfl
@[simp] theorem State.setConnStart_expected (s : State) (x) : (s.setConnStart x).expected = s.expected := rfl
@[simp] theorem State.setConnStart_rsp (s : State) (x) : (s.setConnStart x).rsp = s.rsp := rfl
@[simp] theorem State.setConnStart_rspPending (s : State) (x) : (s.setConnStart x).rspPending = s.rspPending := rfl
@[simp] theorem State.setConnStart_env (s : State) (x) : (s.setConnStart x).env = s.env := rfl

/-! ## setDl -/

@[simp] theorem State.setDl_cfg (s : State) (x) : (s.setDl x).cfg = s.cfg := rfl
@[simp] theorem State.setDl_ustate (s : State) (x) : (s.setDl x).ustate = s.ustate := rfl
@[simp] theorem State.setDl_phase (s : State) (x) : (s.setDl x).phase = s.phase := rfl
@[simp] theorem State.setDl_txSeq (s : State) (x) : (s.setDl x).txSeq = s.txSeq := rfl
@[simp] theorem State.setDl_rxLast (s : State) (x) : (s.setDl x).rxLast = s.rxLast := rfl
@[simp] theorem State.setDl_ctr (s : State) (x) : (s.setDl x).ctr = s.ctr := rfl
@[simp] theorem State.setDl_connStart (s : State) (x) : (s.setDl x).connStart = s.connStart := rfl
@[simp] theorem State.setDl_dl (s : State) (x) : (s.setDl x).dl = x := rfl
@[simp] theorem State.setDl_txf (s : State) (x) : (s.setDl x).txf = s.txf := rfl
@[simp] theorem State.setDl_txfLen (s : State) (x) : (s.setDl x).txfLen = s.txfLen := rfl
@[simp] theorem State.setDl_rxf (s : State) (x) : (s.setDl x).rxf = s.rxf := rfl
@[simp] theorem State.setDl_rxfLen (s : State) (x) : (s.setDl x).rxfLen = s.rxfLen := rfl
@[simp] theorem State.setDl_akf (s : State) (x) : (s.setDl x).akf = s.akf := rfl
@[simp] theorem State.setDl_csAcc (s : State) (x) : (s.setDl x).csAcc = s.csAcc := rfl
@[simp] theorem State.setDl_locNeed (s : State) (x) : (s.setDl x).locNeed = s.locNeed := rfl
@[simp] theorem State.setDl_locCnt (s : State) (x) : (s.setDl x).locCnt = s.locCnt := rfl
@[simp] theorem State.setDl_locMax (s : State) (x) : (s.setDl x).locMax = s.locMax := rfl
@[simp] theorem State.setDl_tries (s : State) (x) : (s.setDl x).tries = s.tries := rfl
@[simp] theorem State.setDl_expected (s : State) (x) : (s.setDl x).expected = s.expected := rfl
@[simp] theorem State.setDl_rsp (s : State) (x) : (s.setDl x).rsp = s.rsp := rfl
@[simp] theorem State.setDl_rspPending (s : State) (x) : (s.setDl x).rspPending = s.rspPending := rfl
@[simp] theorem State.setDl_env (s : State) (x) : (s.setDl x).env = s.env := rfl

/-! ## setTxf -/

@[simp] theorem State.setTxf_cfg (s : State) (x) : (s.setTxf x).cfg = s.cfg := rfl
@[simp] theorem State.setTxf_ustate (s : State) (x) : (s.setTxf x).ustate = s.ustate := rfl
@[simp] theorem State.setTxf_phase (s : State) (x) : (s.setTxf x).phase = s.phase := rfl
@[simp] theorem State.setTxf_txSeq (s : State) (x) : (s.setTxf x).txSeq = s.txSeq := rfl
@[simp] theorem State.setTxf_rxLast (s : State) (x) : (s.setTxf x).rxLast = s.rxLast := rfl
@[simp] theorem State.setTxf_ctr (s : State) (x) : (s.setTxf x).ctr = s.ctr := rfl
@[simp] theorem State.setTxf_connStart (s : State) (x) : (s.setTxf x).connStart = s.connStart := rfl
@[simp] theorem State.setTxf_dl (s : State) (x) : (s.setTxf x).dl = s.dl := rfl
@[simp] theorem State.setTxf_txf (s : State) (x) : (s.setTxf x).txf = x := rfl
@[simp] theorem State.setTxf_txfLen (s : State) (x) : (s.setTxf x).txfLen = s.txfLen := rfl
@[simp] theorem State.setTxf_rxf (s : State) (x) : (s.setTxf x).rxf = s.rxf := rfl
@[simp] theorem State.setTxf_rxfLen (s : State) (x) : (s.setTxf x).rxfLen = s.rxfLen := rfl
@[simp] theorem State.setTxf_akf (s : State) (x) : (s.setTxf x).akf = s.akf := rfl
@[simp] theorem State.setTxf_csAcc (s : State) (x) : (s.setTxf x).csAcc = s.csAcc := rfl
@[simp] theorem State.setTxf_locNeed (s : State) (x) : (s.setTxf x).locNeed = s.locNeed := rfl
@[simp] theorem State.setTxf_locCnt (s : State) (x) : (s.setTxf x).locCnt = s.locCnt := rfl
@[simp] theorem State.setTxf_locMax (s : State) (x) : (s.setTxf x).locMax = s.locMax := rfl
@[simp] theorem State.setTxf_tries (s : State) (x) : (s.setTxf x).tries = s.tries := rfl
@[simp] theorem State.setTxf_expected (s : State) (x) : (s.setTxf x).expected = s.expected := rfl
@[simp] theorem State.setTxf_rsp (s : State) (x) : (s.setTxf x).rsp = s.rsp := rfl
@[simp] theorem State.setTxf_rspPending (s : State) (x) : (s.setTxf x).rspPending = s.rspPending := rfl
@[simp] theorem State.setTxf_env (s : State) (x) : (s.setTxf x).env = s.env := rfl

/-! ## setTxfLen -/

@[simp] theorem State.setTxfLen_cfg (s : State) (x) : (s.setTxfLen x).cfg = s.cfg := rfl
@[simp] theorem State.setTxfLen_ustate (s : State) (x) : (s.setTxfLen x).ustate = s.ustate := rfl
@[simp] theorem State.setTxfLen_phase (s : State) (x) : (s.setTxfLen x).phase = s.phase := rfl
@[simp] theorem State.setTxfLen_txSeq (s : State) (x) : (s.setTxfLen x).txSeq = s.txSeq := rfl
@[simp] theorem State.setTxfLen_rxLast (s : State) (x) : (s.setTxfLen x).rxLast = s.rxLast := rfl
@[simp] theorem State.setTxfLen_ctr (s : State) (x) : (s.setTxfLen x).ctr = s.ctr := rfl
@[simp] theorem State.setTxfLen_connStart (s : State) (x) : (s.setTxfLen x).connStart = s.connStart := rfl
@[simp] theorem State.setTxfLen_dl (s : State) (x) : (s.setTxfLen x).dl = s.dl := rfl
@[simp] theorem State.setTxfLen_txf (s : State) (x) : (s.setTxfLen x).txf = s.txf := rfl
@[simp] theorem State.setTxfLen_txfLen (s : State) (x) : (s.setTxfLen x).txfLen = x := rfl
@[simp] theorem State.setTxfLen_rxf (s : State) (x) : (s.setTxfLen x).rxf = s.rxf := rfl
@[simp] theorem State.setTxfLen_rxfLen (s : State) (x) : (s.setTxfLen x).rxfLen = s.rxfLen := rfl
@[simp] theorem State.setTxfLen_akf (s : State) (x) : (s.setTxfLen x).akf = s.akf := rfl
@[simp] theorem State.setTxfLen_csAcc (s : State) (x) : (s.setTxfLen x).csAcc = s.csAcc := rfl
@[simp] theorem State.setTxfLen_locNeed (s : State) (x) : (s.setTxfLen x).locNeed = s.locNeed := rfl
@[simp] theorem State.setTxfLen_locCnt (s : State) (x) : (s.setTxfLen x).locCnt = s.locCnt := rfl
@[simp] theorem State.setTxfLen_locMax (s : State) (x) : (s.setTxfLen x).locMax = s.locMax := rfl
@[simp] theorem State.setTxfLen_tries (s : State) (x) : (s.setTxfLen x).tries = s.tries := rfl
@[simp] theorem State.setTxfLen_expected (s : State) (x) : (s.setTxfLen x).expected = s.expected := rfl
@[simp] theorem State.setTxfLen_rsp (s : State) (x) : (s.setTxfLen x).rsp = s.rsp := rfl
@[simp] theorem State.setTxfLen_rspPending (s : State) (x) : (s.setTxfLen x).rspPending = s.rspPending := rfl
@[simp] theorem State.setTxfLen_env (s : State) (x) : (s.setTxfLen x).env = s.env := rfl

/-! ## setRxf -/

@[simp] theorem State.setRxf_cfg (s : State) (x) : (s.setRxf x).cfg = s.cfg := rfl
@[simp] theorem State.setRxf_ustate (s : State) (x) : (s.setRxf x).ustate = s.ustate := rfl
@[simp] theorem State.setRxf_phase (s : State) (x) : (s.setRxf x).phase = s.phase := rfl
@[simp] theorem State.setRxf_txSeq (s : State) (x) : (s.setRxf x).txSeq = s.txSeq := rfl
@[simp] theorem State.setRxf_rxLast (s : State) (x) : (s.setRxf x).rxLast = s.rxLast := rfl
@[simp] theorem State.setRxf_ctr (s : State) (x) : (s.setRxf x).ctr = s.ctr := rfl
@[simp] theorem State.setRxf_connStart (s : State) (x) : (s.setRxf x).connStart = s.connStart := rfl
@[simp] theorem State.setRxf_dl (s : State) (x) : (s.setRxf x).dl = s.dl := rfl
@[simp] theorem State.setRxf_txf (s : State) (x) : (s.setRxf x).txf = s.txf := rfl
@[simp] theorem State.setRxf_txfLen (s : State) (x) : (s.setRxf x).txfLen = s.txfLen := rfl
@[simp] theorem State.setRxf_rxf (s : State) (x) : (s.setRxf x).rxf = x := rfl
@[simp] theorem State.setRxf_rxfLen (s : State) (x) : (s.setRxf x).rxfLen = s.rxfLen := rfl
@[simp] theorem State.setRxf_akf (s : State) (x) : (s.setRxf x).akf = s.akf := rfl
@[simp] theorem State.setRxf_csAcc (s : State) (x) : (s.setRxf x).csAcc = s.csAcc := rfl
@[simp] theorem State.setRxf_locNeed (s : State) (x) : (s.setRxf x).locNeed = s.locNeed := rfl
@[simp] theorem State.setRxf_locCnt (s : State) (x) : (s.setRxf x).locCnt = s.locCnt := rfl
@[simp] theorem State.setRxf_locMax (s : State) (x) : (s.setRxf x).locMax = s.locMax := rfl
@[simp] theorem State.setRxf_tries (s : State) (x) : (s.setRxf x).tries = s.tries := rfl
@[simp] theorem State.setRxf_expected (s : State) (x) : (s.setRxf x).expected = s.expected := rfl
@[simp] theorem State.setRxf_rsp (s : State) (x) : (s.setRxf x).rsp = s.rsp := rfl
@[simp] theorem State.setRxf_rspPending (s : State) (x) : (s.setRxf x).rspPending = s.rspPending := rfl
@[simp] theorem State.setRxf_env (s : State) (x) : (s.setRxf x).env = s.env := rfl

/-! ## setRxfLen -/

@[simp] theorem State.setRxfLen_cfg (s : State) (x) : (s.setRxfLen x).cfg = s.cfg := rfl
@[simp] theorem State.setRxfLen_ustate (s : State) (x) : (s.setRxfLen x).ustate = s.ustate := rfl
@[simp] theorem State.setRxfLen_phase (s : State) (x) : (s.setRxfLen x).phase = s.phase := rfl
@[simp] theorem State.setRxfLen_txSeq (s : State) (x) : (s.setRxfLen x).txSeq = s.txSeq := rfl
@[simp] theorem State.setRxfLen_rxLast (s : State) (x) : (s.setRxfLen x).rxLast = s.rxLast := rfl
@[simp] theorem State.setRxfLen_ctr (s : State) (x) : (s.setRxfLen x).ctr = s.ctr := rfl
@[simp] theorem State.setRxfLen_connStart (s : State) (x) : (s.setRxfLen x).connStart = s.connStart := rfl
@[simp] theorem State.setRxfLen_dl (s : State) (x) : (s.setRxfLen x).dl = s.dl := rfl
@[simp] theorem State.setRxfLen_txf (s : State) (x) : (s.setRxfLen x).txf = s.txf := rfl
@[simp] theorem State.setRxfLen_txfLen (s : State) (x) : (s.setRxfLen x).txfLen = s.txfLen := rfl
@[simp] theorem State.setRxfLen_rxf (s : State) (x) : (s.setRxfLen x).rxf = s.rxf := rfl
@[simp] theorem State.setRxfLen_rxfLen (s : State) (x) : (s.setRxfLen x).rxfLen = x := rfl
@[simp] theorem State.setRxfLen_akf (s : State) (x) : (s.setRxfLen x).akf = s.akf := rfl
@[simp] theorem State.setRxfLen_csAcc (s : State) (x) : (s.setRxfLen x).csAcc = s.csAcc := rfl
@[simp] theorem State.setRxfLen_locNeed (s : State) (x) : (s.setRxfLen x).locNeed = s.locNeed := rfl
@[simp] theorem State.setRxfLen_locCnt (s : State) (x) : (s.setRxfLen x).locCnt = s.locCnt := rfl
@[simp] theorem State.setRxfLen_locMax (s : State) (x) : (s.setRxfLen x).locMax = s.locMax := rfl
@[simp] theorem State.setRxfLen_tries (s : State) (x) : (s.setRxfLen x).tries = s.tries := rfl
@[simp] theorem State.setRxfLen_expected (s : State) (x) : (s.setRxfLen x).expected = s.expected := rfl
@[simp] theorem State.setRxfLen_rsp (s : State) (x) : (s.setRxfLen x).rsp = s.rsp := rfl
@[simp] theorem State.setRxfLen_rspPending (s : State) (x) : (s.setRxfLen x).rspPending = s.rspPending := rfl
@[simp] theorem State.setRxfLen_env (s : State) (x) : (s.setRxfLen x).env = s.env := rfl

/-! ## setAkf -/

@[simp] theorem State.setAkf_cfg (s : State) (x) : (s.setAkf x).cfg = s.cfg := rfl
@[simp] theorem State.setAkf_ustate (s : State) (x) : (s.setAkf x).ustate = s.ustate := rfl
@[simp] theorem State.setAkf_phase (s : State) (x) : (s.setAkf x).phase = s.phase := rfl
@[simp] theorem State.setAkf_txSeq (s : State) (x) : (s.setAkf x).txSeq = s.txSeq := rfl
@[simp] theorem State.setAkf_rxLast (s : State) (x) : (s.setAkf x).rxLast = s.rxLast := rfl
@[simp] theorem State.setAkf_ctr (s : State) (x) : (s.setAkf x).ctr = s.ctr := rfl
@[simp] theorem State.setAkf_connStart (s : State) (x) : (s.setAkf x).connStart = s.connStart := rfl
@[simp] theorem State.setAkf_dl (s : State) (x) : (s.setAkf x).dl = s.dl := rfl
@[simp] theorem State.setAkf_txf (s : State) (x) : (s.setAkf x).txf = s.txf := rfl
@[simp] theorem State.setAkf_txfLen (s : State) (x) : (s.setAkf x).txfLen = s.txfLen := rfl
@[simp] theorem State.setAkf_rxf (s : State) (x) : (s.setAkf x).rxf = s.rxf := rfl
@[simp] theorem State.setAkf_rxfLen (s : State) (x) : (s.setAkf x).rxfLen = s.rxfLen := rfl
@[simp] theorem State.setAkf_akf (s : State) (x) : (s.setAkf x).akf = x := rfl
@[simp] theorem State.setAkf_csAcc (s : State) (x) : (s.setAkf x).csAcc = s.csAcc := rfl
@[simp] theorem State.setAkf_locNeed (s : State) (x) : (s.setAkf x).locNeed = s.locNeed := rfl
@[simp] theorem State.setAkf_locCnt (s : State) (x) : (s.setAkf x).locCnt = s.locCnt := rfl
@[simp] theorem State.setAkf_locMax (s : State) (x) : (s.setAkf x).locMax = s.locMax := rfl
@[simp] theorem State.setAkf_tries (s : State) (x) : (s.setAkf x).tries = s.tries := rfl
@[simp] theorem State.setAkf_expected (s : State) (x) : (s.setAkf x).expected = s.expected := rfl
@[simp] theorem State.setAkf_rsp (s : State) (x) : (s.setAkf x).rsp = s.rsp := rfl
@[simp] theorem State.setAkf_rspPending (s : State) (x) : (s.setAkf x).rspPending = s.rspPending := rfl
@[simp] theorem State.setAkf_env (s : State) (x) : (s.setAkf x).env = s.env := rfl

/-! ## setCsAcc -/

@[simp] theorem State.setCsAcc_cfg (s : State) (x) : (s.setCsAcc x).cfg = s.cfg := rfl
@[simp] theorem State.setCsAcc_ustate (s : State) (x) : (s.setCsAcc x).ustate = s.ustate := rfl
@[simp] theorem State.setCsAcc_phase (s : State) (x) : (s.setCsAcc x).phase = s.phase := rfl
@[simp] theorem State.setCsAcc_txSeq (s : State) (x) : (s.setCsAcc x).txSeq = s.txSeq := rfl
@[simp] theorem State.setCsAcc_rxLast (s : State) (x) : (s.setCsAcc x).rxLast = s.rxLast := rfl
@[simp] theorem State.setCsAcc_ctr (s : State) (x) : (s.setCsAcc x).ctr = s.ctr := rfl
@[simp] theorem State.setCsAcc_connStart (s : State) (x) : (s.setCsAcc x).connStart = s.connStart := rfl
@[simp] theorem State.setCsAcc_dl (s : State) (x) : (s.setCsAcc x).dl = s.dl := rfl
@[simp] theorem State.setCsAcc_txf (s : State) (x) : (s.setCsAcc x).txf = s.txf := rfl
@[simp] theorem State.setCsAcc_txfLen (s : State) (x) : (s.setCsAcc x).txfLen = s.txfLen := rfl
@[simp] theorem State.setCsAcc_rxf (s : State) (x) : (s.setCsAcc x).rxf = s.rxf := rfl
@[simp] theorem State.setCsAcc_rxfLen (s : State) (x) : (s.setCsAcc x).rxfLen = s.rxfLen := rfl
@[simp] theorem State.setCsAcc_akf (s : State) (x) : (s.setCsAcc x).akf = s.akf := rfl
@[simp] theorem State.setCsAcc_csAcc (s : State) (x) : (s.setCsAcc x).csAcc = x := rfl
@[simp] theorem State.setCsAcc_locNeed (s : State) (x) : (s.setCsAcc x).locNeed = s.locNeed := rfl
@[simp] theorem State.setCsAcc_locCnt (s : State) (x) : (s.setCsAcc x).locCnt = s.locCnt := rfl
@[simp] theorem State.setCsAcc_locMax (s : State) (x) : (s.setCsAcc x).locMax = s.locMax := rfl
@[simp] theorem State.setCsAcc_tries (s : State) (x) : (s.setCsAcc x).tries = s.tries := rfl
@[simp] theorem State.setCsAcc_expected (s : State) (x) : (s.setCsAcc x).expected = s.expected := rfl
@[simp] theorem State.setCsAcc_rsp (s : State) (x) : (s.setCsAcc x).rsp = s.rsp := rfl
@[simp] theorem State.setCsAcc_rspPending (s : State) (x) : (s.setCsAcc x).rspPending = s.rspPending := rfl
@[simp] theorem State.setCsAcc_env (s : State) (x) : (s.setCsAcc x).env = s.env := rfl

/-! ## setLocNeed -/

@[simp] theorem State.setLocNeed_cfg (s : State) (x) : (s.setLocNeed x).cfg = s.cfg := rfl
@[simp] theorem State.setLocNeed_ustate (s : State) (x) : (s.setLocNeed x).ustate = s.ustate := rfl
@[simp] theorem State.setLocNeed_phase (s : State) (x) : (s.setLocNeed x).phase = s.phase := rfl
@[simp] theorem State.setLocNeed_txSeq (s : State) (x) : (s.setLocNeed x).txSeq = s.txSeq := rfl
@[simp] theorem State.setLocNeed_rxLast (s : State) (x) : (s.setLocNeed x).rxLast = s.rxLast := rfl
@[simp] theorem State.setLocNeed_ctr (s : State) (x) : (s.setLocNeed x).ctr = s.ctr := rfl
@[simp] theorem State.setLocNeed_connStart (s : State) (x) : (s.setLocNeed x).connStart = s.connStart := rfl
@[simp] theorem State.setLocNeed_dl (s : State) (x) : (s.setLocNeed x).dl = s.dl := rfl
@[simp] theorem State.setLocNeed_txf (s : State) (x) : (s.setLocNeed x).txf = s.txf := rfl
@[simp] theorem State.setLocNeed_txfLen (s : State) (x) : (s.setLocNeed x).txfLen = s.txfLen := rfl
@[simp] theorem State.setLocNeed_rxf (s : State) (x) : (s.setLocNeed x).rxf = s.rxf := rfl
@[simp] theorem State.setLocNeed_rxfLen (s : State) (x) : (s.setLocNeed x).rxfLen = s.rxfLen := rfl
@[simp] theorem State.setLocNeed_akf (s : State) (x) : (s.setLocNeed x).akf = s.akf := rfl
@[simp] theorem State.setLocNeed_csAcc (s : State) (x) : (s.setLocNeed x).csAcc = s.csAcc := rfl
@[simp] theorem State.setLocNeed_locNeed (s : State) (x) : (s.setLocNeed x).locNeed = x := rfl
@[simp] theorem State.setLocNeed_locCnt (s : State) (x) : (s.setLocNeed x).locCnt = s.locCnt := rfl
@[simp] theorem State.setLocNeed_locMax (s : State) (x) : (s.setLocNeed x).locMax = s.locMax := rfl
@[simp] theorem State.setLocNeed_tries (s : State) (x) : (s.setLocNeed x).tries = s.tries := rfl
@[simp] theorem State.setLocNeed_expected (s : State) (x) : (s.setLocNeed x).expected = s.expected := rfl
@[simp] theorem State.setLocNeed_rsp (s : State) (x) : (s.setLocNeed x).rsp = s.rsp := rfl
@[simp] theorem State.setLocNeed_rspPending (s : State) (x) : (s.setLocNeed x).rspPending = s.rspPending := rfl
@[simp] theorem State.setLocNeed_env (s : State) (x) : (s.setLocNeed x).env = s.env := rfl

/-! ## setLocCnt -/

@[simp] theorem State.setLocCnt_cfg (s : State) (x) : (s.setLocCnt x).cfg = s.cfg := rfl
@[simp] theorem State.setLocCnt_ustate (s : State) (x) : (s.setLocCnt x).ustate = s.ustate := rfl
@[simp] theorem State.setLocCnt_phase (s : State) (x) : (s.setLocCnt x).phase = s.phase := rfl
@[simp] theorem State.setLocCnt_txSeq (s : State) (x) : (s.setLocCnt x).txSeq = s.txSeq := rfl
@[simp] theorem State.setLocCnt_rxLast (s : State) (x) : (s.setLocCnt x).rxLast = s.rxLast := rfl
@[simp] theorem State.setLocCnt_ctr (s : State) (x) : (s.setLocCnt x).ctr = s.ctr := rfl
@[simp] theorem State.setLocCnt_connStart (s : State) (x) : (s.setLocCnt x).connStart = s.connStart := rfl
@[simp] theorem State.setLocCnt_dl (s : State) (x) : (s.setLocCnt x).dl = s.dl := rfl
@[simp] theorem State.setLocCnt_txf (s : State) (x) : (s.setLocCnt x).txf = s.txf := rfl
@[simp] theorem State.setLocCnt_txfLen (s : State) (x) : (s.setLocCnt x).txfLen = s.txfLen := rfl
@[simp] theorem State.setLocCnt_rxf (s : State) (x) : (s.setLocCnt x).rxf = s.rxf := rfl
@[simp] theorem State.setLocCnt_rxfLen (s : State) (x) : (s.setLocCnt x).rxfLen = s.rxfLen := rfl
@[simp] theorem State.setLocCnt_akf (s : State) (x) : (s.setLocCnt x).akf = s.akf := rfl
@[simp] theorem State.setLocCnt_csAcc (s : State) (x) : (s.setLocCnt x).csAcc = s.csAcc := rfl
@[simp] theorem State.setLocCnt_locNeed (s : State) (x) : (s.setLocCnt x).locNeed = s.locNeed := rfl
@[simp] theorem State.setLocCnt_locCnt (s : State) (x) : (s.setLocCnt x).locCnt = x := rfl
@[simp] theorem State.setLocCnt_locMax (s : State) (x) : (s.setLocCnt x).locMax = s.locMax := rfl
@[simp] theorem State.setLocCnt_tries (s : State) (x) : (s.setLocCnt x).tries = s.tries := rfl
@[simp] theorem State.setLocCnt_expected (s : State) (x) : (s.setLocCnt x).expected = s.expected := rfl
@[simp] theorem State.setLocCnt_rsp (s : State) (x) : (s.setLocCnt x).rsp = s.rsp := rfl
@[simp] theorem State.setLocCnt_rspPending (s : State) (x) : (s.setLocCnt x).rspPending = s.rspPending := rfl
@[simp] theorem State.setLocCnt_env (s : State) (x) : (s.setLocCnt x).env = s.env := rfl

/-! ## setLocMax -/

@[simp] theorem State.setLocMax_cfg (s : State) (x) : (s.setLocMax x).cfg = s.cfg := rfl
@[simp] theorem State.setLocMax_ustate (s : State) (x) : (s.setLocMax x).ustate = s.ustate := rfl
@[simp] theorem State.setLocMax_phase (s : State) (x) : (s.setLocMax x).phase = s.phase := rfl
@[simp] theorem State.setLocMax_txSeq (s : State) (x) : (s.setLocMax x).txSeq = s.txSeq := rfl
@[simp] theorem State.setLocMax_rxLast (s : State) (x) : (s.setLocMax x).rxLast = s.rxLast := rfl
@[simp] theorem State.setLocMax_ctr (s : State) (x) : (s.setLocMax x).ctr = s.ctr := rfl
@[simp] theorem State.setLocMax_connStart (s : State) (x) : (s.setLocMax x).connStart = s.connStart := rfl
@[simp] theorem State.setLocMax_dl (s : State) (x) : (s.setLocMax x).dl = s.dl := rfl
@[simp] theorem State.setLocMax_txf (s : State) (x) : (s.setLocMax x).txf = s.txf := rfl
@[simp] theorem State.setLocMax_txfLen (s : State) (x) : (s.setLocMax x).txfLen = s.txfLen := rfl
@[simp] theorem State.setLocMax_rxf (s : State) (x) : (s.setLocMax x).rxf = s.rxf := rfl
@[simp] theorem State.setLocMax_rxfLen (s : State) (x) : (s.setLocMax x).rxfLen = s.rxfLen := rfl
@[simp] theorem State.setLocMax_akf (s : State) (x) : (s.setLocMax x).akf = s.akf := rfl
@[simp] theorem State.setLocMax_csAcc (s : State) (x) : (s.setLocMax x).csAcc = s.csAcc := rfl
@[simp] theorem State.setLocMax_locNeed (s : State) (x) : (s.setLocMax x).locNeed = s.locNeed := rfl
@[simp] theorem State.setLocMax_locCnt (s : State) (x) : (s.setLocMax x).locCnt = s.locCnt := rfl
@[simp] theorem State.setLocMax_locMax (s : State) (x) : (s.setLocMax x).locMax = x := rfl
@[simp] theorem State.setLocMax_tries (s : State) (x) : (s.setLocMax x).tries = s.tries := rfl
@[simp] theorem State.setLocMax_expected (s : State) (x) : (s.setLocMax x).expected = s.expected := rfl
@[simp] theorem State.setLocMax_rsp (s : State) (x) : (s.setLocMax x).rsp = s.rsp := rfl
@[simp] theorem State.setLocMax_rspPending (s : State) (x) : (s.setLocMax x).rspPending = s.rspPending := rfl
@[simp] theorem State.setLocMax_env (s : State) (x) : (s.setLocMax x).env = s.env := rfl

/-! ## setTries -/

@[simp] theorem State.setTries_cfg (s : State) (x) : (s.setTries x).cfg = s.cfg := rfl
@[simp] theorem State.setTries_ustate (s : State) (x) : (s.setTries x).ustate = s.ustate := rfl
@[simp] theorem State.setTries_phase (s : State) (x) : (s.setTries x).phase = s.phase := rfl
@[simp] theorem State.setTries_txSeq (s : State) (x) : (s.setTries x).txSeq = s.txSeq := rfl
@[simp] theorem State.setTries_rxLast (s : State) (x) : (s.setTries x).rxLast = s.rxLast := rfl
@[simp] theorem State.setTries_ctr (s : State) (x) : (s.setTries x).ctr = s.ctr := rfl
@[simp] theorem State.setTries_connStart (s : State) (x) : (s.setTries x).connStart = s.connStart := rfl
@[simp] theorem State.setTries_dl (s : State) (x) : (s.setTries x).dl = s.dl := rfl
@[simp] theorem State.setTries_txf (s : State) (x) : (s.setTries x).txf = s.txf := rfl
@[simp] theorem State.setTries_txfLen (s : State) (x) : (s.setTries x).txfLen = s.txfLen := rfl
@[simp] theorem State.setTries_rxf (s : State) (x) : (s.setTries x).rxf = s.rxf := rfl
@[simp] theorem State.setTries_rxfLen (s : State) (x) : (s.setTries x).rxfLen = s.rxfLen := rfl
@[simp] theorem State.setTries_akf (s : State) (x) : (s.setTries x).akf = s.akf := rfl
@[simp] theorem State.setTries_csAcc (s : State) (x) : (s.setTries x).csAcc = s.csAcc := rfl
@[simp] theorem State.setTries_locNeed (s : State) (x) : (s.setTries x).locNeed = s.locNeed := rfl
@[simp] theorem State.setTries_locCnt (s : State) (x) : (s.setTries x).locCnt = s.locCnt := rfl
@[simp] theorem State.setTries_locMax (s : State) (x) : (s.setTries x).locMax = s.locMax := rfl
@[simp] theorem State.setTries_tries (s : State) (x) : (s.setTries x).tries = x := rfl
@[simp] theorem State.setTries_expected (s : State) (x) : (s.setTries x).expected = s.expected := rfl
@[simp] theorem State.setTries_rsp (s : State) (x) : (s.setTries x).rsp = s.rsp := rfl
@[simp] theorem State.setTries_rspPending (s : State) (x) : (s.setTries x).rspPending = s.rspPending := rfl
@[simp] theorem State.setTries_env (s : State) (x) : (s.setTries x).env = s.env := rfl

/-! ## setExpected -/

@[simp] theorem State.setExpected_cfg (s : State) (x) : (s.setExpected x).cfg = s.cfg := rfl
@[simp] theorem State.setExpected_ustate (s : State) (x) : (s.setExpected x).ustate = s.ustate := rfl
@[simp] theorem State.setExpected_phase (s : State) (x) : (s.setExpected x).phase = s.phase := rfl
@[simp] theorem State.setExpected_txSeq (s : State) (x) : (s.setExpected x).txSeq = s.txSeq := rfl
@[simp] theorem State.setExpected_rxLast (s : State) (x) : (s.setExpected x).rxLast = s.rxLast := rfl
@[simp] theorem State.setExpected_ctr (s : State) (x) : (s.setExpected x).ctr = s.ctr := rfl
@[simp] theorem State.setExpected_connStart (s : State) (x) : (s.setExpected x).connStart = s.connStart := rfl
@[simp] theorem State.setExpected_dl (s : State) (x) : (s.setExpected x).dl = s.dl := rfl
@[simp] theorem State.setExpected_txf (s : State) (x) : (s.setExpected x).txf = s.txf := rfl
@[simp] theorem State.setExpected_txfLen (s : State) (x) : (s.setExpected x).txfLen = s.txfLen := rfl
@[simp] theorem State.setExpected_rxf (s : State) (x) : (s.setExpected x).rxf = s.rxf := rfl
@[simp] theorem State.setExpected_rxfLen (s : State) (x) : (s.setExpected x).rxfLen = s.rxfLen := rfl
@[simp] theorem State.setExpected_akf (s : State) (x) : (s.setExpected x).akf = s.akf := rfl
@[simp] theorem State.setExpected_csAcc (s : State) (x) : (s.setExpected x).csAcc = s.csAcc := rfl
@[simp] theorem State.setExpected_locNeed (s : State) (x) : (s.setExpected x).locNeed = s.locNeed := rfl
@[simp] theorem State.setExpected_locCnt (s : State) (x) : (s.setExpected x).locCnt = s.locCnt := rfl
@[simp] theorem State.setExpected_locMax (s : State) (x) : (s.setExpected x).locMax = s.locMax := rfl
@[simp] theorem State.setExpected_tries (s : State) (x) : (s.setExpected x).tries = s.tries := rfl
@[simp] theorem State.setExpected_expected (s : State) (x) : (s.setExpected x).expected = x := rfl
@[simp] theorem State.setExpected_rsp (s : State) (x) : (s.setExpected x).rsp = s.rsp := rfl
@[simp] theorem State.setExpected_rspPending (s : State) (x) : (s.setExpected x).rspPending = s.rspPending := rfl
@[simp] theorem State.setExpected_env (s : State) (x) : (s.setExpected x).env = s.env := rfl

/-! ## setRsp -/

@[simp] theorem State.setRsp_cfg (s : State) (x) : (s.setRsp x).cfg = s.cfg := rfl
@[simp] theorem State.setRsp_ustate (s : State) (x) : (s.setRsp x).ustate = s.ustate := rfl
@[simp] theorem State.setRsp_phase (s : State) (x) : (s.setRsp x).phase = s.phase := rfl
@[simp] theorem State.setRsp_txSeq (s : State) (x) : (s.setRsp x).txSeq = s.txSeq := rfl
@[simp] theorem State.setRsp_rxLast (s : State) (x) : (s.setRsp x).rxLast = s.rxLast := rfl
@[simp] theorem State.setRsp_ctr (s : State) (x) : (s.setRsp x).ctr = s.ctr := rfl
@[simp] theorem State.setRsp_connStart (s : State) (x) : (s.setRsp x).connStart = s.connStart := rfl
@[simp] theorem State.setRsp_dl (s : State) (x) : (s.setRsp x).dl = s.dl := rfl
@[simp] theorem State.setRsp_txf (s : State) (x) : (s.setRsp x).txf = s.txf := rfl
@[simp] theorem State.setRsp_txfLen (s : State) (x) : (s.setRsp x).txfLen = s.txfLen := rfl
@[simp] theorem State.setRsp_rxf (s : State) (x) : (s.setRsp x).rxf = s.rxf := rfl
@[simp] theorem State.setRsp_rxfLen (s : State) (x) : (s.setRsp x).rxfLen = s.rxfLen := rfl
@[simp] theorem State.setRsp_akf (s : State) (x) : (s.setRsp x).akf = s.akf := rfl
@[simp] theorem State.setRsp_csAcc (s : State) (x) : (s.setRsp x).csAcc = s.csAcc := rfl
@[simp] theorem State.setRsp_locNeed (s : State) (x) : (s.setRsp x).locNeed = s.locNeed := rfl
@[simp] theorem State.setRsp_locCnt (s : State) (x) : (s.setRsp x).locCnt = s.locCnt := rfl
@[simp] theorem State.setRsp_locMax (s : State) (x) : (s.setRsp x).locMax = s.locMax := rfl
@[simp] theorem State.setRsp_tries (s : State) (x) : (s.setRsp x).tries = s.tries := rfl
@[simp] theorem State.setRsp_expected (s : State) (x) : (s.setRsp x).expected = s.expected := rfl
@[simp] theorem State.setRsp_rsp (s : State) (x) : (s.setRsp x).rsp = x := rfl
@[simp] theorem State.setRsp_rspPending (s : State) (x) : (s.setRsp x).rspPending = s.rspPending := rfl
@[simp] theorem State.setRsp_env (s : State) (x) : (s.setRsp x).env = s.env := rfl

/-! ## setRspPending -/

@[simp] theorem State.setRspPending_cfg (s : State) (x) : (s.setRspPending x).cfg = s.cfg := rfl
@[simp] theorem State.setRspPending_ustate (s : State) (x) : (s.setRspPending x).ustate = s.ustate := rfl
@[simp] theorem State.setRspPending_phase (s : State) (x) : (s.setRspPending x).phase = s.phase := rfl
@[simp] theorem State.setRspPending_txSeq (s : State) (x) : (s.setRspPending x).txSeq = s.txSeq := rfl
@[simp] theorem State.setRspPending_rxLast (s : State) (x) : (s.setRspPending x).rxLast = s.rxLast := rfl
@[simp] theorem State.setRspPending_ctr (s : State) (x) : (s.setRspPending x).ctr = s.ctr := rfl
@[simp] theorem State.setRspPending_connStart (s : State) (x) : (s.setRspPending x).connStart = s.connStart := rfl
@[simp] theorem State.setRspPending_dl (s : State) (x) : (s.setRspPending x).dl = s.dl := rfl
@[simp] theorem State.setRspPending_txf (s : State) (x) : (s.setRspPending x).txf = s.txf := rfl
@[simp] theorem State.setRspPending_txfLen (s : State) (x) : (s.setRspPending x).txfLen = s.txfLen := rfl
@[simp] theorem State.setRspPending_rxf (s : State) (x) : (s.setRspPending x).rxf = s.rxf := rfl
@[simp] theorem State.setRspPending_rxfLen (s : State) (x) : (s.setRspPending x).rxfLen = s.rxfLen := rfl
@[simp] theorem State.setRspPending_akf (s : State) (x) : (s.setRspPending x).akf = s.akf := rfl
@[simp] theorem State.setRspPending_csAcc (s : State) (x) : (s.setRspPending x).csAcc = s.csAcc := rfl
@[simp] theorem State.setRspPending_locNeed (s : State) (x) : (s.setRspPending x).locNeed = s.locNeed := rfl
@[simp] theorem State.setRspPending_locCnt (s : State) (x) : (s.setRspPending x).locCnt = s.locCnt := rfl
@[simp] theorem State.setRspPending_locMax (s : State) (x) : (s.setRspPending x).locMax = s.locMax := rfl
@[simp] theorem State.setRspPending_tries (s : State) (x) : (s.setRspPending x).tries = s.tries := rfl
@[simp] theorem State.setRspPending_expected (s : State) (x) : (s.setRspPending x).expected = s.expected := rfl
@[simp] theorem State.setRspPending_rsp (s : State) (x) : (s.setRspPending x).rsp = s.rsp := rfl
@[simp] theorem State.setRspPending_rspPending (s : State) (x) : (s.setRspPending x).rspPending = x := rfl
@[simp] theorem State.setRspPending_env (s : State) (x) : (s.setRspPending x).env = s.env := rfl

/-! ## setEnv -/

@[simp] theorem State.setEnv_cfg (s : State) (x) : (s.setEnv x).cfg = s.cfg := rfl
@[simp] theorem State.setEnv_ustate (s : State) (x) : (s.setEnv x).ustate = s.ustate := rfl
@[simp] theorem State.setEnv_phase (s : State) (x) : (s.setEnv x).phase = s.phase := rfl
@[simp] theorem State.setEnv_txSeq (s : State) (x) : (s.setEnv x).txSeq = s.txSeq := rfl
@[simp] theorem State.setEnv_rxLast (s : State) (x) : (s.setEnv x).rxLast = s.rxLast := rfl
@[simp] theorem State.setEnv_ctr (s : State) (x) : (s.setEnv x).ctr = s.ctr := rfl
@[simp] theorem State.setEnv_connStart (s : State) (x) : (s.setEnv x).connStart = s.connStart := rfl
@[simp] theorem State.setEnv_dl (s : State) (x) : (s.setEnv x).dl = s.dl := rfl
@[simp] theorem State.setEnv_txf (s : State) (x) : (s.setEnv x).txf = s.txf := rfl
@[simp] theorem State.setEnv_txfLen (s : State) (x) : (s.setEnv x).txfLen = s.txfLen := rfl
@[simp] theorem State.setEnv_rxf (s : State) (x) : (s.setEnv x).rxf = s.rxf := rfl
@[simp] theorem State.setEnv_rxfLen (s : State) (x) : (s.setEnv x).rxfLen = s.rxfLen := rfl
@[simp] theorem State.setEnv_akf (s : State) (x) : (s.setEnv x).akf = s.akf := rfl
@[simp] theorem State.setEnv_csAcc (s : State) (x) : (s.setEnv x).csAcc = s.csAcc := rfl
@[simp] theorem State.setEnv_locNeed (s : State) (x) : (s.setEnv x).locNeed = s.locNeed := rfl
@[simp] theorem State.setEnv_locCnt (s : State) (x) : (s.setEnv x).locCnt = s.locCnt := rfl
@[simp] theorem State.setEnv_locMax (s : State) (x) : (s.setEnv x).locMax = s.locMax := rfl
@[simp] theorem State.setEnv_tries (s : State) (x) : (s.setEnv x).tries = s.tries := rfl
@[simp] theorem State.setEnv_expected (s : State) (x) : (s.setEnv x).expected = s.expected := rfl
@[simp] theorem State.setEnv_rsp (s : State) (x) : (s.setEnv x).rsp = s.rsp := rfl
@[simp] theorem State.setEnv_rspPending (s : State) (x) : (s.setEnv x).rspPending = s.rspPending := rfl
@[simp] theorem State.setEnv_env (s : State) (x) : (s.setEnv x).env = x := rfl

/-! ## Buffers by name -/

@[simp] theorem State.buf_txf (s : State) : s.buf .txf = s.txf := rfl
@[simp] theorem State.setBuf_txf (s : State) (m) : s.setBuf .txf m = s.setTxf m := rfl
@[simp] theorem State.buf_rxf (s : State) : s.buf .rxf = s.rxf := rfl
@[simp] theorem State.setBuf_rxf (s : State) (m) : s.setBuf .rxf m = s.setRxf m := rfl
@[simp] theorem State.buf_akf (s : State) : s.buf .akf = s.akf := rfl
@[simp] theorem State.setBuf_akf (s : State) (m) : s.setBuf .akf m = s.setAkf m := rfl

/-! ## Counters -/

@[simp] theorem State.inc_cfg (s : State) (c) : (s.inc c).cfg = s.cfg := rfl
@[simp] theorem State.inc_ustate (s : State) (c) : (s.inc c).ustate = s.ustate := rfl
@[simp] theorem State.inc_phase (s : State) (c) : (s.inc c).phase = s.phase := rfl
@[simp] theorem State.inc_txSeq (s : State) (c) : (s.inc c).txSeq = s.txSeq := rfl
@[simp] theorem State.inc_rxLast (s : State) (c) : (s.inc c).rxLast = s.rxLast := rfl
@[simp] theorem State.inc_ctr (s : State) (c) : (s.inc c).ctr = s.ctr.bump c := rfl
@[simp] theorem State.inc_connStart (s : State) (c) : (s.inc c).connStart = s.connStart := rfl
@[simp] theorem State.inc_dl (s : State) (c) : (s.inc c).dl = s.dl := rfl
@[simp] theorem State.inc_txf (s : State) (c) : (s.inc c).txf = s.txf := rfl
@[simp] theorem State.inc_txfLen (s : State) (c) : (s.inc c).txfLen = s.txfLen := rfl
@[simp] theorem State.inc_rxf (s : State) (c) : (s.inc c).rxf = s.rxf := rfl
@[simp] theorem State.inc_rxfLen (s : State) (c) : (s.inc c).rxfLen = s.rxfLen := rfl
@[simp] theorem State.inc_akf (s : State) (c) : (s.inc c).akf = s.akf := rfl
@[simp] theorem State.inc_csAcc (s : State) (c) : (s.inc c).csAcc = s.csAcc := rfl
@[simp] theorem State.inc_locNeed (s : State) (c) : (s.inc c).locNeed = s.locNeed := rfl
@[simp] theorem State.inc_locCnt (s : State) (c) : (s.inc c).locCnt = s.locCnt := rfl
@[simp] theorem State.inc_locMax (s : State) (c) : (s.inc c).locMax = s.locMax := rfl
@[simp] theorem State.inc_tries (s : State) (c) : (s.inc c).tries = s.tries := rfl
@[simp] theorem State.inc_expected (s : State) (c) : (s.inc c).expected = s.expected := rfl
@[simp] theorem State.inc_rsp (s : State) (c) : (s.inc c).rsp = s.rsp := rfl
@[simp] theorem State.inc_rspPending (s : State) (c) : (s.inc c).rspPending = s.rspPending := rfl
@[simp] theorem State.inc_env (s : State) (c) : (s.inc c).env = s.env := rfl

/-- `inc(C)` adds one to its own counter and leaves the others. -/
theorem Counters.get_bump (c : Counters) (a b : Counter) :
    (c.bump a).get b = if a = b then c.get b + 1 else c.get b := by
  cases a <;> cases b <;> simp [Counters.bump, Counters.get]

/-! ## Responses, requests and reset -/

@[simp] theorem State.respond_cfg (s : State) (r) : (s.respond r).cfg = s.cfg := rfl
@[simp] theorem State.respond_ustate (s : State) (r) : (s.respond r).ustate = .idle := rfl
@[simp] theorem State.respond_phase (s : State) (r) : (s.respond r).phase = s.phase := rfl
@[simp] theorem State.respond_txSeq (s : State) (r) : (s.respond r).txSeq = s.txSeq := rfl
@[simp] theorem State.respond_rxLast (s : State) (r) : (s.respond r).rxLast = s.rxLast := rfl
@[simp] theorem State.respond_ctr (s : State) (r) : (s.respond r).ctr = s.ctr := rfl
@[simp] theorem State.respond_connStart (s : State) (r) : (s.respond r).connStart = s.connStart := rfl
@[simp] theorem State.respond_dl (s : State) (r) : (s.respond r).dl = s.dl := rfl
@[simp] theorem State.respond_txf (s : State) (r) : (s.respond r).txf = s.txf := rfl
@[simp] theorem State.respond_txfLen (s : State) (r) : (s.respond r).txfLen = s.txfLen := rfl
@[simp] theorem State.respond_rxf (s : State) (r) : (s.respond r).rxf = s.rxf := rfl
@[simp] theorem State.respond_rxfLen (s : State) (r) : (s.respond r).rxfLen = s.rxfLen := rfl
@[simp] theorem State.respond_akf (s : State) (r) : (s.respond r).akf = s.akf := rfl
@[simp] theorem State.respond_csAcc (s : State) (r) : (s.respond r).csAcc = s.csAcc := rfl
@[simp] theorem State.respond_locNeed (s : State) (r) : (s.respond r).locNeed = s.locNeed := rfl
@[simp] theorem State.respond_locCnt (s : State) (r) : (s.respond r).locCnt = s.locCnt := rfl
@[simp] theorem State.respond_locMax (s : State) (r) : (s.respond r).locMax = s.locMax := rfl
@[simp] theorem State.respond_tries (s : State) (r) : (s.respond r).tries = s.tries := rfl
@[simp] theorem State.respond_expected (s : State) (r) : (s.respond r).expected = s.expected := rfl
@[simp] theorem State.respond_rsp (s : State) (r) : (s.respond r).rsp = r := rfl
@[simp] theorem State.respond_rspPending (s : State) (r) : (s.respond r).rspPending = true := rfl
@[simp] theorem State.respond_env (s : State) (r) : (s.respond r).env = s.env := rfl

@[simp] theorem State.raise_cfg (s : State) (st) : (s.raise st).cfg = s.cfg := rfl
@[simp] theorem State.raise_ustate (s : State) (st) : (s.raise st).ustate = .idle := rfl
@[simp] theorem State.raise_phase (s : State) (st) : (s.raise st).phase = s.phase := rfl
@[simp] theorem State.raise_txSeq (s : State) (st) : (s.raise st).txSeq = s.txSeq := rfl
@[simp] theorem State.raise_rxLast (s : State) (st) : (s.raise st).rxLast = s.rxLast := rfl
@[simp] theorem State.raise_ctr (s : State) (st) : (s.raise st).ctr = s.ctr := rfl
@[simp] theorem State.raise_connStart (s : State) (st) : (s.raise st).connStart = s.connStart := rfl
@[simp] theorem State.raise_dl (s : State) (st) : (s.raise st).dl = s.dl := rfl
@[simp] theorem State.raise_txf (s : State) (st) : (s.raise st).txf = s.txf := rfl
@[simp] theorem State.raise_txfLen (s : State) (st) : (s.raise st).txfLen = s.txfLen := rfl
@[simp] theorem State.raise_rxf (s : State) (st) : (s.raise st).rxf = s.rxf := rfl
@[simp] theorem State.raise_rxfLen (s : State) (st) : (s.raise st).rxfLen = s.rxfLen := rfl
@[simp] theorem State.raise_akf (s : State) (st) : (s.raise st).akf = s.akf := rfl
@[simp] theorem State.raise_csAcc (s : State) (st) : (s.raise st).csAcc = s.csAcc := rfl
@[simp] theorem State.raise_locNeed (s : State) (st) : (s.raise st).locNeed = s.locNeed := rfl
@[simp] theorem State.raise_locCnt (s : State) (st) : (s.raise st).locCnt = s.locCnt := rfl
@[simp] theorem State.raise_locMax (s : State) (st) : (s.raise st).locMax = s.locMax := rfl
@[simp] theorem State.raise_tries (s : State) (st) : (s.raise st).tries = s.tries := rfl
@[simp] theorem State.raise_expected (s : State) (st) : (s.raise st).expected = s.expected := rfl
@[simp] theorem State.raise_rsp (s : State) (st) : (s.raise st).rsp = { status := st } := rfl
@[simp] theorem State.raise_rspPending (s : State) (st) : (s.raise st).rspPending = true := rfl
@[simp] theorem State.raise_env (s : State) (st) : (s.raise st).env = s.env := rfl

@[simp] theorem State.raiseTransport_cfg (s : State) (x) : (s.raiseTransport x).cfg = s.cfg := rfl
@[simp] theorem State.raiseTransport_ustate (s : State) (x) : (s.raiseTransport x).ustate = .idle := rfl
@[simp] theorem State.raiseTransport_phase (s : State) (x) : (s.raiseTransport x).phase = s.phase := rfl
@[simp] theorem State.raiseTransport_txSeq (s : State) (x) : (s.raiseTransport x).txSeq = s.txSeq := rfl
@[simp] theorem State.raiseTransport_rxLast (s : State) (x) : (s.raiseTransport x).rxLast = s.rxLast := rfl
@[simp] theorem State.raiseTransport_ctr (s : State) (x) : (s.raiseTransport x).ctr = s.ctr := rfl
@[simp] theorem State.raiseTransport_connStart (s : State) (x) : (s.raiseTransport x).connStart = s.connStart := rfl
@[simp] theorem State.raiseTransport_dl (s : State) (x) : (s.raiseTransport x).dl = s.dl := rfl
@[simp] theorem State.raiseTransport_txf (s : State) (x) : (s.raiseTransport x).txf = s.txf := rfl
@[simp] theorem State.raiseTransport_txfLen (s : State) (x) : (s.raiseTransport x).txfLen = s.txfLen := rfl
@[simp] theorem State.raiseTransport_rxf (s : State) (x) : (s.raiseTransport x).rxf = s.rxf := rfl
@[simp] theorem State.raiseTransport_rxfLen (s : State) (x) : (s.raiseTransport x).rxfLen = s.rxfLen := rfl
@[simp] theorem State.raiseTransport_akf (s : State) (x) : (s.raiseTransport x).akf = s.akf := rfl
@[simp] theorem State.raiseTransport_csAcc (s : State) (x) : (s.raiseTransport x).csAcc = s.csAcc := rfl
@[simp] theorem State.raiseTransport_locNeed (s : State) (x) : (s.raiseTransport x).locNeed = s.locNeed := rfl
@[simp] theorem State.raiseTransport_locCnt (s : State) (x) : (s.raiseTransport x).locCnt = s.locCnt := rfl
@[simp] theorem State.raiseTransport_locMax (s : State) (x) : (s.raiseTransport x).locMax = s.locMax := rfl
@[simp] theorem State.raiseTransport_tries (s : State) (x) : (s.raiseTransport x).tries = s.tries := rfl
@[simp] theorem State.raiseTransport_expected (s : State) (x) : (s.raiseTransport x).expected = s.expected := rfl
@[simp] theorem State.raiseTransport_rsp (s : State) (x) : (s.raiseTransport x).rsp = { status := .transportError, x := x } := rfl
@[simp] theorem State.raiseTransport_rspPending (s : State) (x) : (s.raiseTransport x).rspPending = true := rfl
@[simp] theorem State.raiseTransport_env (s : State) (x) : (s.raiseTransport x).env = s.env := rfl

@[simp] theorem State.issue_cfg (s : State) (i k r) : (s.issue i k r).cfg = s.cfg := rfl
@[simp] theorem State.issue_ustate (s : State) (i k r) : (s.issue i k r).ustate = .busy i k := rfl
@[simp] theorem State.issue_phase (s : State) (i k r) : (s.issue i k r).phase = s.phase := rfl
@[simp] theorem State.issue_txSeq (s : State) (i k r) : (s.issue i k r).txSeq = s.txSeq := rfl
@[simp] theorem State.issue_rxLast (s : State) (i k r) : (s.issue i k r).rxLast = s.rxLast := rfl
@[simp] theorem State.issue_ctr (s : State) (i k r) : (s.issue i k r).ctr = s.ctr := rfl
@[simp] theorem State.issue_connStart (s : State) (i k r) : (s.issue i k r).connStart = s.connStart := rfl
@[simp] theorem State.issue_dl (s : State) (i k r) : (s.issue i k r).dl = s.dl := rfl
@[simp] theorem State.issue_txf (s : State) (i k r) : (s.issue i k r).txf = s.txf := rfl
@[simp] theorem State.issue_txfLen (s : State) (i k r) : (s.issue i k r).txfLen = s.txfLen := rfl
@[simp] theorem State.issue_rxf (s : State) (i k r) : (s.issue i k r).rxf = s.rxf := rfl
@[simp] theorem State.issue_rxfLen (s : State) (i k r) : (s.issue i k r).rxfLen = s.rxfLen := rfl
@[simp] theorem State.issue_akf (s : State) (i k r) : (s.issue i k r).akf = s.akf := rfl
@[simp] theorem State.issue_csAcc (s : State) (i k r) : (s.issue i k r).csAcc = s.csAcc := rfl
@[simp] theorem State.issue_locNeed (s : State) (i k r) : (s.issue i k r).locNeed = s.locNeed := rfl
@[simp] theorem State.issue_locCnt (s : State) (i k r) : (s.issue i k r).locCnt = s.locCnt := rfl
@[simp] theorem State.issue_locMax (s : State) (i k r) : (s.issue i k r).locMax = s.locMax := rfl
@[simp] theorem State.issue_tries (s : State) (i k r) : (s.issue i k r).tries = s.tries := rfl
@[simp] theorem State.issue_expected (s : State) (i k r) : (s.issue i k r).expected = s.expected := rfl
@[simp] theorem State.issue_rsp (s : State) (i k r) : (s.issue i k r).rsp = s.rsp := rfl
@[simp] theorem State.issue_rspPending (s : State) (i k r) : (s.issue i k r).rspPending = s.rspPending := rfl
@[simp] theorem State.issue_env (s : State) (i k r) : (s.issue i k r).env = { s.env with log := s.env.log ++ [r] } := rfl

@[simp] theorem State.dropCommand_cfg (s : State) : (s.dropCommand).cfg = s.cfg := rfl
@[simp] theorem State.dropCommand_ustate (s : State) : (s.dropCommand).ustate = s.ustate := rfl
@[simp] theorem State.dropCommand_phase (s : State) : (s.dropCommand).phase = s.phase := rfl
@[simp] theorem State.dropCommand_txSeq (s : State) : (s.dropCommand).txSeq = s.txSeq := rfl
@[simp] theorem State.dropCommand_rxLast (s : State) : (s.dropCommand).rxLast = s.rxLast := rfl
@[simp] theorem State.dropCommand_ctr (s : State) : (s.dropCommand).ctr = s.ctr := rfl
@[simp] theorem State.dropCommand_connStart (s : State) : (s.dropCommand).connStart = s.connStart := rfl
@[simp] theorem State.dropCommand_dl (s : State) : (s.dropCommand).dl = s.dl := rfl
@[simp] theorem State.dropCommand_txf (s : State) : (s.dropCommand).txf = s.txf := rfl
@[simp] theorem State.dropCommand_txfLen (s : State) : (s.dropCommand).txfLen = s.txfLen := rfl
@[simp] theorem State.dropCommand_rxf (s : State) : (s.dropCommand).rxf = s.rxf := rfl
@[simp] theorem State.dropCommand_rxfLen (s : State) : (s.dropCommand).rxfLen = s.rxfLen := rfl
@[simp] theorem State.dropCommand_akf (s : State) : (s.dropCommand).akf = s.akf := rfl
@[simp] theorem State.dropCommand_csAcc (s : State) : (s.dropCommand).csAcc = s.csAcc := rfl
@[simp] theorem State.dropCommand_locNeed (s : State) : (s.dropCommand).locNeed = s.locNeed := rfl
@[simp] theorem State.dropCommand_locCnt (s : State) : (s.dropCommand).locCnt = s.locCnt := rfl
@[simp] theorem State.dropCommand_locMax (s : State) : (s.dropCommand).locMax = s.locMax := rfl
@[simp] theorem State.dropCommand_tries (s : State) : (s.dropCommand).tries = s.tries := rfl
@[simp] theorem State.dropCommand_expected (s : State) : (s.dropCommand).expected = s.expected := rfl
@[simp] theorem State.dropCommand_rsp (s : State) : (s.dropCommand).rsp = s.rsp := rfl
@[simp] theorem State.dropCommand_rspPending (s : State) : (s.dropCommand).rspPending = s.rspPending := rfl
@[simp] theorem State.dropCommand_env (s : State) : (s.dropCommand).env = { s.env with cmds := s.env.cmds.tail } := rfl

@[simp] theorem State.takeResponse_cfg (s : State) : (s.takeResponse).cfg = s.cfg := rfl
@[simp] theorem State.takeResponse_ustate (s : State) : (s.takeResponse).ustate = s.ustate := rfl
@[simp] theorem State.takeResponse_phase (s : State) : (s.takeResponse).phase = s.phase := rfl
@[simp] theorem State.takeResponse_txSeq (s : State) : (s.takeResponse).txSeq = s.txSeq := rfl
@[simp] theorem State.takeResponse_rxLast (s : State) : (s.takeResponse).rxLast = s.rxLast := rfl
@[simp] theorem State.takeResponse_ctr (s : State) : (s.takeResponse).ctr = s.ctr := rfl
@[simp] theorem State.takeResponse_connStart (s : State) : (s.takeResponse).connStart = s.connStart := rfl
@[simp] theorem State.takeResponse_dl (s : State) : (s.takeResponse).dl = s.dl := rfl
@[simp] theorem State.takeResponse_txf (s : State) : (s.takeResponse).txf = s.txf := rfl
@[simp] theorem State.takeResponse_txfLen (s : State) : (s.takeResponse).txfLen = s.txfLen := rfl
@[simp] theorem State.takeResponse_rxf (s : State) : (s.takeResponse).rxf = s.rxf := rfl
@[simp] theorem State.takeResponse_rxfLen (s : State) : (s.takeResponse).rxfLen = s.rxfLen := rfl
@[simp] theorem State.takeResponse_akf (s : State) : (s.takeResponse).akf = s.akf := rfl
@[simp] theorem State.takeResponse_csAcc (s : State) : (s.takeResponse).csAcc = s.csAcc := rfl
@[simp] theorem State.takeResponse_locNeed (s : State) : (s.takeResponse).locNeed = s.locNeed := rfl
@[simp] theorem State.takeResponse_locCnt (s : State) : (s.takeResponse).locCnt = s.locCnt := rfl
@[simp] theorem State.takeResponse_locMax (s : State) : (s.takeResponse).locMax = s.locMax := rfl
@[simp] theorem State.takeResponse_tries (s : State) : (s.takeResponse).tries = s.tries := rfl
@[simp] theorem State.takeResponse_expected (s : State) : (s.takeResponse).expected = s.expected := rfl
@[simp] theorem State.takeResponse_rsp (s : State) : (s.takeResponse).rsp = s.rsp := rfl
@[simp] theorem State.takeResponse_rspPending (s : State) : (s.takeResponse).rspPending = false := rfl
@[simp] theorem State.takeResponse_env (s : State) : (s.takeResponse).env = { s.env with taken := s.env.taken ++ [s.rsp] } := rfl

@[simp] theorem State.setRst_cfg (s : State) (r) : (s.setRst r).cfg = s.cfg := rfl
@[simp] theorem State.setRst_ustate (s : State) (r) : (s.setRst r).ustate = s.ustate := rfl
@[simp] theorem State.setRst_phase (s : State) (r) : (s.setRst r).phase = s.phase := rfl
@[simp] theorem State.setRst_txSeq (s : State) (r) : (s.setRst r).txSeq = s.txSeq := rfl
@[simp] theorem State.setRst_rxLast (s : State) (r) : (s.setRst r).rxLast = s.rxLast := rfl
@[simp] theorem State.setRst_ctr (s : State) (r) : (s.setRst r).ctr = s.ctr := rfl
@[simp] theorem State.setRst_connStart (s : State) (r) : (s.setRst r).connStart = s.connStart := rfl
@[simp] theorem State.setRst_dl (s : State) (r) : (s.setRst r).dl = s.dl := rfl
@[simp] theorem State.setRst_txf (s : State) (r) : (s.setRst r).txf = s.txf := rfl
@[simp] theorem State.setRst_txfLen (s : State) (r) : (s.setRst r).txfLen = s.txfLen := rfl
@[simp] theorem State.setRst_rxf (s : State) (r) : (s.setRst r).rxf = s.rxf := rfl
@[simp] theorem State.setRst_rxfLen (s : State) (r) : (s.setRst r).rxfLen = s.rxfLen := rfl
@[simp] theorem State.setRst_akf (s : State) (r) : (s.setRst r).akf = s.akf := rfl
@[simp] theorem State.setRst_csAcc (s : State) (r) : (s.setRst r).csAcc = s.csAcc := rfl
@[simp] theorem State.setRst_locNeed (s : State) (r) : (s.setRst r).locNeed = s.locNeed := rfl
@[simp] theorem State.setRst_locCnt (s : State) (r) : (s.setRst r).locCnt = s.locCnt := rfl
@[simp] theorem State.setRst_locMax (s : State) (r) : (s.setRst r).locMax = s.locMax := rfl
@[simp] theorem State.setRst_tries (s : State) (r) : (s.setRst r).tries = s.tries := rfl
@[simp] theorem State.setRst_expected (s : State) (r) : (s.setRst r).expected = s.expected := rfl
@[simp] theorem State.setRst_rsp (s : State) (r) : (s.setRst r).rsp = s.rsp := rfl
@[simp] theorem State.setRst_rspPending (s : State) (r) : (s.setRst r).rspPending = s.rspPending := rfl
@[simp] theorem State.setRst_env (s : State) (r) : (s.setRst r).env = { s.env with rst := r } := rfl

end Sys2Proof.Machine
end

