-- ==== Sys2Proof/Laws/Memory.lean ====
section
/-! SUPPORT. The laws of a buffer's contents: a read after a write, the canonical form, and the closed forms of the bulk
reads and writes (spec/20_memory.md R60 to R64). -/

namespace Sys2Proof.Machine

/-! ## One byte -/

/-- A read gives the last byte written at its offset, and a write leaves every other offset alone. -/
theorem Memory.get?_put (m : Memory) (i j : Nat) (v : Byte) :
    (m.put i v).get? j = if j = i then some v else m.get? j := by
  induction m with
  | nil => simp [Memory.put, Memory.get?]
  | cons c m ih =>
    obtain ⟨b, w⟩ := c
    unfold Memory.put
    split
    · simp [Memory.get?]
    · split
      · subst_vars; simp only [Memory.get?]; split <;> simp_all
      · simp only [Memory.get?, ih]
        split <;> split <;> first | rfl | (exfalso; omega)

@[simp] theorem Memory.get?_put_same (m : Memory) (i : Nat) (v : Byte) : (m.put i v).get? i = some v := by
  simp [Memory.get?_put]

theorem Memory.get?_put_other (m : Memory) {i j : Nat} (h : j ≠ i) (v : Byte) :
    (m.put i v).get? j = m.get? j := by
  simp [Memory.get?_put, h]

theorem Memory.risingFrom_put {m : Memory} {lo size i : Nat} {v : Byte}
    (h : m.risingFrom lo size = true) (hlo : lo ≤ i) (hi : i < size) :
    (m.put i v).risingFrom lo size = true := by
  induction m generalizing lo with
  | nil => simp [Memory.put, Memory.risingFrom, hlo, hi]
  | cons c m ih =>
    obtain ⟨b, w⟩ := c
    simp only [Memory.risingFrom, Bool.and_eq_true, decide_eq_true_eq] at h
    unfold Memory.put
    split
    · simp only [Memory.risingFrom, Bool.and_eq_true, decide_eq_true_eq]
      exact ⟨⟨hlo, hi⟩, ⟨by omega, h.1.2⟩, h.2⟩
    · split
      · subst_vars
        simp only [Memory.risingFrom, Bool.and_eq_true, decide_eq_true_eq]
        exact h
      · simp only [Memory.risingFrom, Bool.and_eq_true, decide_eq_true_eq]
        exact ⟨h.1, ih h.2 (by omega)⟩

/-- A write keeps the canonical form. -/
theorem Memory.wf_put {m : Memory} {size i : Nat} {v : Byte} (h : m.wf size = true) (hi : i < size) :
    (m.put i v).wf size = true :=
  Memory.risingFrom_put h (Nat.zero_le i) hi

/-- In canonical form nothing lies below the lowest offset. -/
theorem Memory.get?_eq_none_of_lt {m : Memory} {lo size j : Nat} (h : m.risingFrom lo size = true) (hj : j < lo) :
    m.get? j = none := by
  induction m generalizing lo with
  | nil => rfl
  | cons c m ih =>
    obtain ⟨b, w⟩ := c
    simp only [Memory.risingFrom, Bool.and_eq_true, decide_eq_true_eq] at h
    have hne : j ≠ b := by omega
    simp only [Memory.get?, hne, if_false]
    exact ih h.2 (by omega)

/-- In canonical form nothing lies outside the buffer. -/
theorem Memory.get?_eq_none_of_ge {m : Memory} {lo size j : Nat} (h : m.risingFrom lo size = true) (hj : size ≤ j) :
    m.get? j = none := by
  induction m generalizing lo with
  | nil => rfl
  | cons c m ih =>
    obtain ⟨b, w⟩ := c
    simp only [Memory.risingFrom, Bool.and_eq_true, decide_eq_true_eq] at h
    have hne : j ≠ b := by omega
    simp only [Memory.get?, hne, if_false]
    exact ih h.2

theorem Memory.read_ok {b : BufName} {m : Memory} {i : Nat} {v : Byte} (hi : i < b.size) (h : m.get? i = some v) :
    Memory.read b m i = .ok v := by
  simp [Memory.read, hi, h]

theorem Memory.write_ok {b : BufName} {m : Memory} {i : Nat} (v : Byte) (hi : i < b.size) :
    Memory.write b m i v = .ok (m.put i v) := by
  simp [Memory.write, hi]

/-! ## Byte strings -/

/-- `bytes` written from offset `i` up. -/
def Memory.putAll (m : Memory) (i : Nat) : List Byte → Memory
  | [] => m
  | v :: vs => Memory.putAll (m.put i v) (i + 1) vs

/-- A byte string that fits is written whole. -/
theorem Memory.writeAll_ok {b : BufName} {m : Memory} {i : Nat} {vs : List Byte} (h : i + vs.length ≤ b.size) :
    Memory.writeAll b m i vs = .ok (m.putAll i vs) := by
  induction vs generalizing m i with
  | nil => rfl
  | cons v vs ih =>
    simp only [List.length_cons] at h
    simp only [Memory.writeAll, Memory.write_ok v (show i < b.size by omega), Memory.putAll]
    exact ih (by omega)

/-- A write that succeeds is the closed form. -/
theorem Memory.writeAll_eq_ok {b : BufName} {m m' : Memory} {i : Nat} {vs : List Byte}
    (h : Memory.writeAll b m i vs = .ok m') : m' = m.putAll i vs := by
  induction vs generalizing m i with
  | nil => simpa [Memory.writeAll, Memory.putAll] using h.symm
  | cons v vs ih =>
    simp only [Memory.writeAll] at h
    split at h
    · cases h
    · rename_i m1 h1
      simp only [Memory.write] at h1
      split at h1
      · cases h1; exact ih h
      · cases h1

/-- The canonical form survives a bulk write that fits. -/
theorem Memory.wf_putAll {m : Memory} {size i : Nat} {vs : List Byte} (h : m.wf size = true)
    (hi : i + vs.length ≤ size) : (m.putAll i vs).wf size = true := by
  induction vs generalizing m i with
  | nil => exact h
  | cons v vs ih =>
    simp only [List.length_cons] at hi
    exact ih (Memory.wf_put h (by omega)) (by omega)

/-- A one-byte write keeps the canonical form. -/
theorem Memory.wf_write {b : BufName} {m m' : Memory} {i : Nat} {v : Byte} (h : m.wf b.size = true)
    (hw : Memory.write b m i v = .ok m') : m'.wf b.size = true := by
  simp only [Memory.write] at hw
  split at hw
  · cases hw; exact Memory.wf_put h (by assumption)
  · cases hw

/-- So does a write of a byte string. -/
theorem Memory.wf_writeAll {b : BufName} {m m' : Memory} {i : Nat} {vs : List Byte} (h : m.wf b.size = true)
    (hw : Memory.writeAll b m i vs = .ok m') : m'.wf b.size = true := by
  induction vs generalizing m i with
  | nil => cases hw; exact h
  | cons v vs ih =>
    simp only [Memory.writeAll] at hw
    split at hw
    · cases hw
    · exact ih (Memory.wf_write h (by assumption)) hw

/-- After reset every buffer is in its canonical form: nothing is listed. -/
theorem Memory.wf_reset (b : BufName) : (State.reset.buf b).wf b.size = true := by
  cases b <;> rfl

theorem Memory.get?_putAll_lt (m : Memory) {i j : Nat} (vs : List Byte) (h : j < i) :
    (m.putAll i vs).get? j = m.get? j := by
  induction vs generalizing m i with
  | nil => rfl
  | cons v vs ih =>
    rw [Memory.putAll, ih _ (by omega), Memory.get?_put_other _ (by omega)]

theorem Memory.get?_putAll_ge (m : Memory) {i j : Nat} (vs : List Byte) (h : i + vs.length ≤ j) :
    (m.putAll i vs).get? j = m.get? j := by
  induction vs generalizing m i with
  | nil => rfl
  | cons v vs ih =>
    simp only [List.length_cons] at h
    rw [Memory.putAll, ih _ (by omega), Memory.get?_put_other _ (by omega)]

/-- What was written stands there. -/
theorem Memory.holds_putAll (m : Memory) (i : Nat) (vs : List Byte) : (m.putAll i vs).holds i vs = true := by
  induction vs generalizing m i with
  | nil => rfl
  | cons v vs ih =>
    simp only [Memory.holds, Memory.putAll, Bool.and_eq_true, beq_iff_eq]
    exact ⟨by rw [Memory.get?_putAll_lt _ _ (by omega)]; simp, ih _ _⟩

/-- `holds`, byte by byte. -/
theorem Memory.holds_iff (m : Memory) (i : Nat) (vs : List Byte) :
    m.holds i vs = true ↔ ∀ j, (h : j < vs.length) → m.get? (i + j) = some vs[j] := by
  induction vs generalizing i with
  | nil => simp [Memory.holds]
  | cons v vs ih =>
    simp only [Memory.holds, Bool.and_eq_true, beq_iff_eq, ih]
    constructor
    · rintro ⟨h0, h⟩ j hj
      match j with
      | 0 => simpa using h0
      | j + 1 =>
        simp only [List.length_cons] at hj
        have := h j (by omega)
        rw [show i + (j + 1) = i + 1 + j by omega]
        simpa using this
    · intro h
      refine ⟨h 0 (by simp), fun j hj => ?_⟩
      have := h (j + 1) (by simp; omega)
      rw [show i + 1 + j = i + (j + 1) by omega]
      simpa using this

/-- Bytes that stand in the buffer are read back, in order. -/
theorem Memory.readAll_ok {b : BufName} {m : Memory} {i : Nat} {vs : List Byte} (hi : i + vs.length ≤ b.size)
    (h : m.holds i vs = true) : Memory.readAll b m i vs.length = .ok vs := by
  induction vs generalizing i with
  | nil => rfl
  | cons v vs ih =>
    simp only [Memory.holds, Bool.and_eq_true, beq_iff_eq] at h
    simp only [List.length_cons] at hi
    simp only [List.length_cons, Memory.readAll, Memory.read_ok (show i < b.size by omega) h.1]
    rw [ih (by omega) h.2]
    rfl

/-- A bulk read that succeeds gives as many bytes as were asked for, and they stand in the buffer. -/
theorem Memory.readAll_eq_ok {b : BufName} {m : Memory} {i k : Nat} {vs : List Byte}
    (h : Memory.readAll b m i k = .ok vs) : vs.length = k ∧ m.holds i vs = true := by
  induction k generalizing i vs with
  | zero => cases h; simp [Memory.holds]
  | succ k ih =>
    simp only [Memory.readAll] at h
    split at h
    · cases h
    · rename_i v hv
      cases hr : Memory.readAll b m (i + 1) k with
      | error f => rw [hr] at h; cases h
      | ok ws =>
        rw [hr] at h
        cases h
        have := ih hr
        simp only [Memory.read] at hv
        split at hv
        · split at hv
          · rename_i w hw
            cases hv
            simp [Memory.holds, this, hw]
          · cases hv
        · cases hv

/-- A filled range is a byte string that stands there. -/
theorem Memory.filled_holds {m : Memory} {i k : Nat} (h : m.filled i (i + k)) :
    ∃ vs : List Byte, vs.length = k ∧ m.holds i vs = true := by
  induction k generalizing i with
  | zero => exact ⟨[], rfl, rfl⟩
  | succ k ih =>
    obtain ⟨v, hv⟩ := h i (by omega) (by omega)
    obtain ⟨vs, hl, hh⟩ := ih (i := i + 1) (fun j h1 h2 => h j (by omega) (by omega))
    exact ⟨v :: vs, by simp [hl], by simp [Memory.holds, hv, hh]⟩

theorem Memory.holds_filled {m : Memory} {i : Nat} {vs : List Byte} (h : m.holds i vs = true) :
    m.filled i (i + vs.length) := by
  intro j h1 h2
  have := (Memory.holds_iff m i vs).1 h (j - i) (by omega)
  exact ⟨_, by rwa [show i + (j - i) = j by omega] at this⟩

theorem Memory.filled_put {m : Memory} {i k a : Nat} {v : Byte} (h : m.filled i k) : (m.put a v).filled i k := by
  intro j h1 h2
  rw [Memory.get?_put]
  split
  · exact ⟨v, rfl⟩
  · exact h j h1 h2

/-- Part of a byte string that stands in the buffer stands there too. -/
theorem Memory.holds_append {m : Memory} {i : Nat} {us vs : List Byte} :
    m.holds i (us ++ vs) = true ↔ m.holds i us = true ∧ m.holds (i + us.length) vs = true := by
  induction us generalizing i with
  | nil => simp [Memory.holds]
  | cons u us ih =>
    simp only [List.cons_append, Memory.holds, Bool.and_eq_true, ih, List.length_cons, and_assoc,
      show i + 1 + us.length = i + (us.length + 1) by omega]

end Sys2Proof.Machine
end

