-- ==== Sys2Proof/Laws/Ops.lean ====
section
/-! SUPPORT. One lemma for each shared operation, saying once everything it can do: the buffer accesses, the
environment's answers, and the checks (spec/00_scope.md R9, R10; spec/60_exceptions.md R223). -/

namespace Sys2Proof.Machine

/-! ## Stopping and going on -/

@[simp] theorem orFault_ok {α : Type} (a : α) (go : α → Out) : orFault (.ok a) go = go a := rfl

@[simp] theorem orFault_error {α : Type} (f : Fault) (go : α → Out) : orFault (.error f) go = .fault f := rfl

/-- An operation that goes on to a next state has answered. -/
theorem orFault_eq_next {α : Type} {x : Except Fault α} {go : α → Out} {t : State} (h : orFault x go = .next t) :
    ∃ a, x = .ok a ∧ go a = .next t := by
  cases x with
  | ok a => exact ⟨a, rfl, h⟩
  | error f => cases h

/-- R160: the comparator output is 1 exactly when the deadline is reached. -/
theorem elapsed_eq_true (now dl : Time) : elapsed now dl = true ↔ dl ≤ now := decide_eq_true_iff

/-! ## Buffers -/

theorem State.memRead_ok {s : State} {b : BufName} {i : Nat} {v : Byte} (hi : i < b.size)
    (h : (s.buf b).get? i = some v) : s.memRead b i = .ok v :=
  Memory.read_ok hi h

theorem State.memWrite_ok (s : State) {b : BufName} {i : Nat} (v : Byte) (hi : i < b.size) :
    s.memWrite b i v = .ok (s.setBuf b ((s.buf b).put i v)) := by
  simp [State.memWrite, Memory.write_ok v hi, Except.map]

theorem State.memReadAll_ok {s : State} {b : BufName} {i : Nat} {vs : List Byte} (hi : i + vs.length ≤ b.size)
    (h : (s.buf b).holds i vs = true) : s.memReadAll b i vs.length = .ok vs :=
  Memory.readAll_ok hi h

theorem State.memWriteAll_ok (s : State) {b : BufName} {i : Nat} {vs : List Byte} (h : i + vs.length ≤ b.size) :
    s.memWriteAll b i vs = .ok (s.setBuf b ((s.buf b).putAll i vs)) := by
  simp [State.memWriteAll, Memory.writeAll_ok h, Except.map]

/-! ## The environment's answers -/

/-- `RxRead()` takes the next answer of the script. -/
theorem Env.rxRead_cons {e : Env} {a : RxAnswer} {rest : List RxAnswer} (h : e.rx = a :: rest) :
    e.rxRead = (a, { e with rx := rest }) := by
  simp [Env.rxRead, h]

/-- `RxRead()` leaves time, the command port, reset and the record of requests alone. -/
theorem Env.rxRead_frame (e : Env) :
    e.rxRead.2.now = e.now ∧ e.rxRead.2.cmds = e.cmds ∧ e.rxRead.2.taken = e.taken ∧ e.rxRead.2.rst = e.rst ∧
      e.rxRead.2.tx = e.tx ∧ e.rxRead.2.ctrl = e.ctrl ∧ e.rxRead.2.ticks = e.ticks ∧ e.rxRead.2.log = e.log := by
  unfold Env.rxRead; split <;> simp

/-- `XOpen` and `XClose` take the next answer of the script. -/
theorem Env.ctrlAnswer_cons {e : Env} {a : CtrlAnswer} {rest : List CtrlAnswer} (h : e.ctrl = a :: rest) :
    e.ctrlAnswer = (a, { e with ctrl := rest }) := by
  simp [Env.ctrlAnswer, h]

theorem Env.ctrlAnswer_frame (e : Env) :
    e.ctrlAnswer.2.now = e.now ∧ e.ctrlAnswer.2.cmds = e.cmds ∧ e.ctrlAnswer.2.taken = e.taken ∧
      e.ctrlAnswer.2.rst = e.rst ∧ e.ctrlAnswer.2.rx = e.rx ∧ e.ctrlAnswer.2.tx = e.tx ∧
      e.ctrlAnswer.2.ticks = e.ticks ∧ e.ctrlAnswer.2.log = e.log := by
  unfold Env.ctrlAnswer; split <;> simp

/-- `Now()` takes the next advance of the script. -/
theorem Env.readNow_cons {e : Env} {dt : Time} {rest : List Time} (h : e.ticks = dt :: rest) :
    e.readNow = (e.now + dt, { e with now := e.now + dt, ticks := rest }) := by
  simp [Env.readNow, h]

/-- `Now()` never returns less than before, and what it returns is the time from then on. -/
theorem Env.readNow_frame (e : Env) :
    e.now ≤ e.readNow.1 ∧ e.readNow.2.now = e.readNow.1 ∧ e.readNow.2.cmds = e.cmds ∧
      e.readNow.2.taken = e.taken ∧ e.readNow.2.rst = e.rst ∧ e.readNow.2.rx = e.rx ∧ e.readNow.2.tx = e.tx ∧
      e.readNow.2.ctrl = e.ctrl ∧ e.readNow.2.log = e.log := by
  unfold Env.readNow; split <;> simp

/-- A scripted count within the length is the answer of `TxWrite`. -/
theorem Env.txWrite_count {e : Env} {k len : Nat} {rest : List TxAnswer} (h : e.tx = .count k :: rest)
    (hk : k ≤ len) : e.txWrite len = .ok (.count k, { e with tx := rest }) := by
  simp [Env.txWrite, h, hk]

theorem Env.txWrite_err {e : Env} {x : Int} {len : Nat} {rest : List TxAnswer} (h : e.tx = .err x :: rest) :
    e.txWrite len = .ok (.err x, { e with tx := rest }) := by
  simp [Env.txWrite, h]

/-- What `TxWrite` can do: answer within the transport's duty, leaving everything but its own script alone, or get
stuck on a transport that breaks its duty. -/
theorem Env.txWrite_cases (e : Env) (len : Nat) :
    (∃ a e', e.txWrite len = .ok (a, e') ∧ (∀ k, a = .count k → k ≤ len) ∧ e'.now = e.now ∧ e'.cmds = e.cmds ∧
      e'.taken = e.taken ∧ e'.rst = e.rst ∧ e'.rx = e.rx ∧ e'.ctrl = e.ctrl ∧ e'.ticks = e.ticks ∧
      e'.log = e.log) ∨
    (∃ k, e.txWrite len = .error (.transportOvercount k len)) := by
  unfold Env.txWrite
  split
  · split
    · left; exact ⟨_, _, rfl, by rintro k ⟨⟩; assumption, rfl, rfl, rfl, rfl, rfl, rfl, rfl, rfl⟩
    · right; exact ⟨_, rfl⟩
  · left; exact ⟨_, _, rfl, by rintro k ⟨⟩, rfl, rfl, rfl, rfl, rfl, rfl, rfl, rfl⟩
  · left
    refine ⟨_, _, rfl, ?_, rfl, rfl, rfl, rfl, rfl, rfl, rfl, rfl⟩
    intro k hk
    cases hf : Config.freeTx e.draws <;> rw [hf] at hk <;> simp only [dutiful] at hk <;> cases hk
    omega

theorem State.rxRead_eq (s : State) : s.rxRead = (s.env.rxRead.1, s.setEnv s.env.rxRead.2) := rfl

theorem State.readNow_eq (s : State) : s.readNow = (s.env.readNow.1, s.setEnv s.env.readNow.2) := rfl

theorem State.ctrlAnswer_eq (s : State) : s.ctrlAnswer = (s.env.ctrlAnswer.1, s.setEnv s.env.ctrlAnswer.2) := rfl

/-- What the end of a `TxWrite` of `len` bytes can be: it is complete and the command goes on, it is short, it fails, or
the transport broke its duty. Nothing but the environment has changed by then. -/
theorem State.afterWrite_cases (s : State) (len : Nat) (go : State → Out) :
    (∃ e', s.env.txWrite len = .ok (.count len, e') ∧ e'.now = s.env.now ∧
      s.afterWrite len go = go (s.setEnv e')) ∨
    (∃ k e', s.env.txWrite len = .ok (.count k, e') ∧ k < len ∧ e'.now = s.env.now ∧
      s.afterWrite len go = .next ((s.setEnv e').raise .incomplete)) ∨
    (∃ x e', s.env.txWrite len = .ok (.err x, e') ∧ e'.now = s.env.now ∧
      s.afterWrite len go = .next ((s.setEnv e').raiseTransport x)) ∨
    (∃ k, s.env.txWrite len = .error (.transportOvercount k len) ∧
      s.afterWrite len go = .fault (.transportOvercount k len)) := by
  rcases s.env.txWrite_cases len with ⟨a, e', h, hk, hn, -⟩ | ⟨k, h⟩
  · cases a with
    | count k =>
      have hk := hk k rfl
      by_cases hlt : k < len
      · exact .inr (.inl ⟨k, e', h, hlt, hn, by simp [State.afterWrite, State.txAnswer, h, Except.map, hlt]⟩)
      · obtain rfl : k = len := by omega
        exact .inl ⟨e', h, hn, by simp [State.afterWrite, State.txAnswer, h, Except.map]⟩
    | err x =>
      exact .inr (.inr (.inl ⟨x, e', h, hn, by simp [State.afterWrite, State.txAnswer, h, Except.map]⟩))
  · exact .inr (.inr (.inr ⟨k, h, by simp [State.afterWrite, State.txAnswer, h, Except.map]⟩))

/-- A complete write goes on. -/
theorem State.afterWrite_complete {s : State} {len : Nat} {rest : List TxAnswer} (h : s.env.tx = .count len :: rest)
    (go : State → Out) : s.afterWrite len go = go (s.setEnv { s.env with tx := rest }) := by
  simp [State.afterWrite, State.txAnswer, Env.txWrite_count h (Nat.le_refl len), Except.map]

/-! ## Acceptance and the checks -/

/-- From IDLE a command starts, with the last response taken. -/
theorem State.running_idle {s : State} (h : s.ustate = .idle) (i : Instr) (start : State → Out)
    (resume : Point → State → Out) : s.running i start resume = start (s.setRspPending false) := by
  simp [State.running, h]

/-- A running command goes on from where it waits. -/
theorem State.running_busy {s : State} {i : Instr} {k : Point} (h : s.ustate = .busy i k) (start : State → Out)
    (resume : Point → State → Out) : s.running i start resume = resume k s := by
  simp [State.running, h]

/-- While a command runs the port accepts no other. -/
theorem State.running_other {s : State} {i j : Instr} {k : Point} (h : s.ustate = .busy j k) (hne : j ≠ i)
    (start : State → Out) (resume : Point → State → Out) : s.running i start resume = .fault .portBusy := by
  simp [State.running, h, hne]

theorem State.needOperand_ok {s : State} {n : Len} (h : n.toNat ≤ 257) (go : State → Out) :
    s.needOperand n go = go s := by
  simp [State.needOperand, Nat.not_lt.2 h]

theorem State.needOperand_bad {s : State} {n : Len} (h : 257 < n.toNat) (go : State → Out) :
    s.needOperand n go = .next (s.raise .badOperand) := by
  simp [State.needOperand, h]

theorem State.needConnected_ok {s : State} (h : s.phase = .connected) (go : State → Out) :
    s.needConnected go = go s := by
  simp [State.needConnected, h]

theorem State.needConnected_bad {s : State} (h : s.phase = .disconnected) (go : State → Out) :
    s.needConnected go = .next (s.raise .notConnected) := by
  simp [State.needConnected, h]

theorem State.needBlock_ok {s : State} {n : Len} (h : n.toNat ≤ s.cfg.maxBlock) (go : State → Out) :
    s.needBlock n go = go s := by
  simp [State.needBlock, Nat.not_lt.2 h]

theorem State.needBlock_bad {s : State} {n : Len} (h : s.cfg.maxBlock < n.toNat) (go : State → Out) :
    s.needBlock n go = .next (s.raise .payloadTooLarge) := by
  simp [State.needBlock, h]

end Sys2Proof.Machine

namespace Sys2Proof

/-- R7: what every configuration satisfies. -/
theorem Config.valid_iff (c : Config) :
    c.statusAck ≠ c.statusNak ∧ 1 ≤ c.maxTries ∧ c.maxBlock ≤ 253 ∧ c.optBlock ≤ c.maxBlock ∧
      c.corruptSentinel.length ≤ 253 := by
  have h := c.valid
  simp only [Params.isValid, Bool.and_eq_true, bne_iff_ne, decide_eq_true_eq] at h
  exact ⟨h.1.1.1.1, h.1.1.1.2, h.1.1.2, h.1.2, h.2⟩

end Sys2Proof
end

