-- ==== Sys2Proof/Laws/Procedures.lean ====
section
/-! SUPPORT. One lemma for each shared procedure, saying once everything it can do: `Checksum`, `Verify`, `Encode`,
`Decode`, the operand copy, `Locate`, `SendAck`, the frame write and the retry loop (spec/40_checksum.md,
spec/41_frame_codec.md, spec/43_arq.md). -/

namespace Sys2Proof.Machine

/-! ## checksum_unit -/

theorem csAdd_lt (acc b : Byte) : (csAdd acc b).toNat < 250 := by
  simp only [csAdd, csMod, BitVec.toNat_ofNat]
  omega

/-- R32: the accumulator holds 0..249. -/
theorem csFold_lt {acc : Byte} (h : acc.toNat < 250) (bytes : List Byte) : (csFold acc bytes).toNat < 250 := by
  induction bytes generalizing acc with
  | nil => exact h
  | cons b bs ih => exact ih (csAdd_lt acc b)

theorem checksumOf_lt (size seq : Byte) (p : List Byte) : (checksumOf size seq p).toNat < 250 :=
  csFold_lt (by decide) _

theorem coveredBytes_length {f : List Byte} : (coveredBytes f).length = f.length - 2 := by
  simp only [coveredBytes, List.length_dropLast, List.length_drop]; omega

theorem payloadOf_length {f : List Byte} : (payloadOf f).length = f.length - 4 := by
  simp only [payloadOf, List.length_dropLast, List.length_drop]; omega

/-- A part of a byte string in a buffer stands at its own offset. -/
theorem Memory.holds_part {m : Memory} {f : List Byte} (h : m.holds 0 f = true) (i : Nat) (k : Nat) :
    m.holds i ((f.drop i).take k) = true := by
  rw [Memory.holds_iff] at h ⊢
  intro j hj
  simp only [List.length_take, List.length_drop] at hj
  have := h (i + j) (by omega)
  simpa using this

theorem coveredBytes_eq (f : List Byte) : coveredBytes f = (f.drop 1).take (f.length - 2) := by
  simp only [coveredBytes, List.dropLast_eq_take, List.length_drop]
  congr 1

theorem payloadOf_eq (f : List Byte) : payloadOf f = (f.drop 3).take (f.length - 4) := by
  simp only [payloadOf, List.dropLast_eq_take, List.length_drop]
  congr 1

/-- `Verify` on a frame that stands in `rxf`: R111 of its bytes; a frame of 4 bytes or more leaves the accumulator's
residue. -/
theorem State.verify_ok {s : State} {f : List Byte} (h : s.rxf.holds 0 f = true) (hl : f.length ≤ 257) :
    s.verify f.length =
      .ok (goodFrame f, if f.length < 4 then s else s.setCsAcc (csFold 0 (coveredBytes f))) := by
  unfold State.verify goodFrame
  by_cases h4 : f.length < 4
  · simp [h4, Nat.not_le.2 h4]
  · have hc : s.memReadAll .rxf 1 (f.length - 2) = .ok (coveredBytes f) := by
      have := State.memReadAll_ok (s := s) (b := .rxf) (i := 1) (vs := coveredBytes f)
        (by rw [coveredBytes_length]; simp only [BufName.size]; omega)
        (by rw [coveredBytes_eq]; exact Memory.holds_part h 1 _)
      rwa [coveredBytes_length] at this
    have hr : s.memRead .rxf (f.length - 1) = .ok (f.getLastD 0) := by
      refine State.memRead_ok (by simp only [BufName.size]; omega) ?_
      have := (Memory.holds_iff _ _ _).1 h (f.length - 1) (by omega)
      have hne : f ≠ [] := by rintro rfl; simp at h4
      rw [List.getLastD_eq_getLast?, List.getLast?_eq_getLast_of_ne_nil hne, Option.getD_some,
        List.getLast_eq_getElem]
      simpa using this
    simp [h4, hc, hr, Nat.not_lt.1 h4]

/-! ## frame_codec -/

theorem frameBytes_length (m q : Byte) (p : List Byte) : (frameBytes m q p).length = p.length + 4 := by
  simp [frameBytes]

theorem lenOf_frame {p : List Byte} (h : p.length ≤ 253) :
    (BitVec.ofNat 9 (p.length + frameOverhead)).toNat = p.length + 4 := by
  simp only [frameOverhead, BitVec.toNat_ofNat]; omega

theorem lenField_toNat {p : List Byte} (h : p.length ≤ 511) : (lenField p).toNat = p.length := by
  simp only [lenField, BitVec.toNat_ofNat]; omega

/-- The state `Encode` leaves (R130). -/
def State.encoded (s : State) (p : List Byte) (seq : Byte) : State :=
  (((s.setCsAcc (checksumOf (sizeByte p) seq p)).setTxf
    (s.txf.putAll 0 (frameBytes s.cfg.marker seq p))).setTxfLen (BitVec.ofNat 9 (p.length + frameOverhead)))

/-- `Encode` of at most 253 bytes. -/
theorem State.encode_ok (s : State) {p : List Byte} (seq : Byte) (h : p.length ≤ 253) :
    s.encode p seq = .ok (some (s.encoded p seq)) := by
  simp only [State.encode, maxPayload, Nat.not_lt.2 h, if_false, State.checksum]
  rw [State.memWriteAll_ok _ (by rw [frameBytes_length]; simp only [BufName.size]; omega)]
  simp [Except.map, State.encoded]

/-- `Encode` of more: `TooLarge`, and nothing is written. -/
theorem State.encode_tooLarge (s : State) {p : List Byte} (seq : Byte) (h : 253 < p.length) :
    s.encode p seq = .ok none := by
  simp [State.encode, maxPayload, h]

theorem State.encoded_holds (s : State) (p : List Byte) (seq : Byte) :
    (s.encoded p seq).txf.holds 0 (frameBytes s.cfg.marker seq p) = true :=
  Memory.holds_putAll _ _ _

/-- `Decode` of a frame that stands in `rxf` (R132). -/
theorem State.decode_ok {s : State} {f : List Byte} (h : s.rxf.holds 0 f = true) (h4 : 4 ≤ f.length)
    (hl : f.length ≤ 257) (cap : Len) :
    s.decode f.length cap = .ok (truncated (payloadOf f) cap, seqOf f) := by
  have hr : s.memRead .rxf 2 = .ok (seqOf f) := by
    refine State.memRead_ok (by simp [BufName.size]) ?_
    have := (Memory.holds_iff _ _ _).1 h 2 (by omega)
    have h2 : 2 < f.length := by omega
    rw [seqOf, List.getD_eq_getElem _ _ h2]
    simpa using this
  have hp : s.memReadAll .rxf 3 (f.length - frameOverhead) = .ok (payloadOf f) := by
    have := State.memReadAll_ok (s := s) (b := .rxf) (i := 3) (vs := payloadOf f)
      (by rw [payloadOf_length]; simp only [BufName.size]; omega)
      (by rw [payloadOf_eq]; exact Memory.holds_part h 3 _)
    rwa [payloadOf_length] at this
  simp [State.decode, hr, hp]

/-- The operand copy (R30). -/
theorem State.loadRxf_ok (s : State) (n : Len) {d : List Byte} (h : d.length ≤ 257) :
    s.loadRxf n d = .ok ((s.setRxf (s.rxf.putAll 0 d)).setRxfLen n) := by
  simp only [State.loadRxf]
  rw [State.memWriteAll_ok _ (by simpa [BufName.size] using h)]
  rfl

/-! ## SendAck -/

/-- The state `SendAck` leaves when it offers its frame (R173). -/
def State.ackBuilt (s : State) (kind : AckKind) (seq : Byte) : State :=
  ((s.setCsAcc (checksumOf 0x03#8 seq [statusByte s.cfg kind])).setAkf (s.akf.putAll 0 (ackBytes s.cfg kind seq)))

/-- `SendAck` up to its `TxWrite`: five bytes always fit `akf`, and they are what the transport is offered. -/
theorem State.callAck_ok (s : State) (i : Instr) (k : Point) (kind : AckKind) (seq : Byte) :
    s.callAck i k kind seq =
      .ok ((s.ackBuilt kind seq).issue i k (.txWrite (ackBytes s.cfg kind seq))) := by
  have hw : ((s.checksum 0x03#8 seq [statusByte s.cfg kind]).2).memWriteAll .akf 0 (ackBytes s.cfg kind seq) =
      .ok (s.ackBuilt kind seq) := by
    rw [State.memWriteAll_ok _ (by simp [ackBytes, BufName.size])]
    rfl
  have hr : (s.ackBuilt kind seq).memReadAll .akf 0 ackLen = .ok (ackBytes s.cfg kind seq) :=
    State.memReadAll_ok (b := .akf) (i := 0) (vs := ackBytes s.cfg kind seq) (by simp [ackBytes, BufName.size])
      (Memory.holds_putAll _ _ _)
  simp only [State.callAck, hw, hr]
  rfl

/-! ## Frames out and attempts -/

/-- The frame write offers the whole frame that stands in `txf` (R175, R176). -/
theorem State.callFrameWrite_ok {s : State} {f : List Byte} (h : s.txf.holds 0 f = true) (hl : s.txfLen.toNat = f.length)
    (h257 : f.length ≤ 257) (i : Instr) :
    s.callFrameWrite i = .ok (s.issue i .frameWrite (.txWrite f)) := by
  have := State.memReadAll_ok (s := s) (b := .txf) (i := 0) (vs := f) (by simpa [BufName.size] using h257) h
  simp [State.callFrameWrite, hl, this, Except.map]

/-- The end of an attempt that is not the last. -/
theorem State.nextAttempt_again {s : State} (h : s.tries < s.cfg.maxTries) (attempt : State → Out) :
    s.nextAttempt attempt = attempt (s.setTries (s.tries + 1)) := by
  simp [State.nextAttempt, h]

/-- The end of the last attempt. -/
theorem State.nextAttempt_last {s : State} (h : s.cfg.maxTries ≤ s.tries) (attempt : State → Out) :
    s.nextAttempt attempt = .next (s.raise .giveUp) := by
  simp [State.nextAttempt, Nat.not_lt.2 h]

/-- Everything the end of an attempt can be: give up, or try again. -/
theorem State.nextAttempt_eq_next {s t : State} {attempt : State → Out} (h : s.nextAttempt attempt = .next t) :
    (s.cfg.maxTries ≤ s.tries ∧ t = s.raise .giveUp) ∨
      (s.tries < s.cfg.maxTries ∧ attempt (s.setTries (s.tries + 1)) = .next t) := by
  rcases Nat.lt_or_ge s.tries s.cfg.maxTries with hlt | hge
  · exact .inr ⟨hlt, by rwa [State.nextAttempt_again hlt] at h⟩
  · rw [State.nextAttempt_last hge] at h
    cases h
    exact .inl ⟨hge, rfl⟩

/-- Whatever stands in `rxf`, `Verify` writes nothing but `cs_acc`. -/
theorem State.verify_frame {s t : State} {len : Nat} {good : Bool} (h : s.verify len = .ok (good, t)) :
    ∃ acc, t = s.setCsAcc acc := by
  unfold State.verify at h
  split at h
  · cases h; exact ⟨s.csAcc, rfl⟩
  · split at h <;> cases h
    exact ⟨_, rfl⟩

end Sys2Proof.Machine
end

