-- ==== Sys2Proof/Laws/Locate.lean ====
section
/-! SUPPORT. Everything the locate procedure can do in one step (spec/41_frame_codec.md R133, R134): where it waits
next, what it returns, and what it leaves alone. -/

namespace Sys2Proof.Machine

/-- `Locate` writes `dl`, its working registers, `rxf`, `rxf_len` and the environment; every other register is as
before, and time has not gone back. -/
structure State.locateFrame (s t : State) : Prop where
  cfg : t.cfg = s.cfg
  phase : t.phase = s.phase
  txSeq : t.txSeq = s.txSeq
  rxLast : t.rxLast = s.rxLast
  ctr : t.ctr = s.ctr
  connStart : t.connStart = s.connStart
  txf : t.txf = s.txf
  txfLen : t.txfLen = s.txfLen
  akf : t.akf = s.akf
  csAcc : t.csAcc = s.csAcc
  tries : t.tries = s.tries
  expected : t.expected = s.expected
  rsp : t.rsp = s.rsp
  rspPending : t.rspPending = s.rspPending
  now : s.env.now ≤ t.env.now

/-- What holds of the answer of one step of `Locate`. -/
def LocateStep.ok (i : Instr) (s : State) : LocateStep → Prop
  | .waits t =>
    ∃ k, t.ustate = .busy i k ∧ inLocate k = true ∧ t.locateOk i k ∧ s.locateFrame t ∧
      t.rxf.wf 257 = true ∧ t.rxfLen = s.rxfLen
  | .returns r t =>
    s.locateFrame t ∧ t.rxf.wf 257 = true ∧
      match r with
      | .frame len =>
        2 ≤ len ∧ len ≤ 257 ∧ len ≤ (maxSizeOf i).toNat ∧ t.rxfLen.toNat = len ∧ t.rxf.filled 0 len ∧
          t.rxf.get? 0 = some s.cfg.marker ∧ ∃ b, t.rxf.get? 1 = some b ∧ b.toNat + 2 = len
      | _ => t.rxfLen = s.rxfLen

/-! What `Locate` writes stays within its frame. -/

theorem State.locateFrame.setDl {s t : State} (h : s.locateFrame t) (x) : s.locateFrame (t.setDl x) :=
  ⟨h.cfg, h.phase, h.txSeq, h.rxLast, h.ctr, h.connStart, h.txf, h.txfLen, h.akf, h.csAcc, h.tries, h.expected, h.rsp,
    h.rspPending, h.now⟩

theorem State.locateFrame.setLocMax {s t : State} (h : s.locateFrame t) (x) : s.locateFrame (t.setLocMax x) :=
  ⟨h.cfg, h.phase, h.txSeq, h.rxLast, h.ctr, h.connStart, h.txf, h.txfLen, h.akf, h.csAcc, h.tries, h.expected, h.rsp,
    h.rspPending, h.now⟩

theorem State.locateFrame.setLocNeed {s t : State} (h : s.locateFrame t) (x) : s.locateFrame (t.setLocNeed x) :=
  ⟨h.cfg, h.phase, h.txSeq, h.rxLast, h.ctr, h.connStart, h.txf, h.txfLen, h.akf, h.csAcc, h.tries, h.expected, h.rsp,
    h.rspPending, h.now⟩

theorem State.locateFrame.setLocCnt {s t : State} (h : s.locateFrame t) (x) : s.locateFrame (t.setLocCnt x) :=
  ⟨h.cfg, h.phase, h.txSeq, h.rxLast, h.ctr, h.connStart, h.txf, h.txfLen, h.akf, h.csAcc, h.tries, h.expected, h.rsp,
    h.rspPending, h.now⟩

theorem State.locateFrame.setRxf {s t : State} (h : s.locateFrame t) (x) : s.locateFrame (t.setRxf x) :=
  ⟨h.cfg, h.phase, h.txSeq, h.rxLast, h.ctr, h.connStart, h.txf, h.txfLen, h.akf, h.csAcc, h.tries, h.expected, h.rsp,
    h.rspPending, h.now⟩

theorem State.locateFrame.setRxfLen {s t : State} (h : s.locateFrame t) (x) : s.locateFrame (t.setRxfLen x) :=
  ⟨h.cfg, h.phase, h.txSeq, h.rxLast, h.ctr, h.connStart, h.txf, h.txfLen, h.akf, h.csAcc, h.tries, h.expected, h.rsp,
    h.rspPending, h.now⟩

theorem State.locateFrame.issue {s t : State} (h : s.locateFrame t) (i k r) : s.locateFrame (t.issue i k r) :=
  ⟨h.cfg, h.phase, h.txSeq, h.rxLast, h.ctr, h.connStart, h.txf, h.txfLen, h.akf, h.csAcc, h.tries, h.expected, h.rsp,
    h.rspPending, h.now⟩

/-- An answer of the receive port touches nothing but the environment. -/
theorem State.locateFrame_rxRead (s : State) : s.locateFrame (s.setEnv s.env.rxRead.2) := by
  constructor <;> simp [s.env.rxRead_frame]

theorem State.locateFrame_readNow (s : State) : s.locateFrame (s.setEnv s.env.readNow.2) := by
  constructor <;> simp [s.env.readNow_frame]

/-- The test of the deadline: it passed, or the procedure goes on. -/
theorem locateTest_ok {i : Instr} {s : State} {go : State → LocateStep} (hwf : s.rxf.wf 257 = true)
    (hgo : (go (s.setEnv s.env.readNow.2)).ok i s) : (locateTest s go).ok i s := by
  unfold locateTest
  split
  · exact ⟨s.locateFrame_readNow, by simpa [State.readNow_eq] using hwf, by simp [State.readNow_eq]⟩
  · exact hgo

/-- BODY after a byte has been stored. -/
theorem locateBody_ok {i : Instr} {s t : State} (hf : s.locateFrame t) (hwf : t.rxf.wf 257 = true)
    (hlen : t.rxfLen = s.rxfLen) (hmax : t.locMax = maxSizeOf i) (h0 : t.rxf.get? 0 = some t.cfg.marker)
    (h1 : t.rxf.get? 1 = some t.locNeed) (hfill : t.rxf.filled 2 (2 + t.locCnt.toNat))
    (hcnt : t.locCnt.toNat ≤ t.locNeed.toNat) (hfit : 2 + t.locNeed.toNat ≤ t.locMax.toNat) :
    (locateBody i t).ok i s := by
  unfold locateBody
  split
  · rename_i hlt
    exact ⟨.bodyRead, rfl, rfl, ⟨hmax, h0, h1, hfill, hlt, hfit⟩, hf.issue _ _ _, hwf, hlen⟩
  · have hneed := t.locNeed.isLt
    have heq : t.locCnt.toNat = t.locNeed.toNat := by omega
    refine ⟨?_, hwf, by omega, by omega, ?_, ?_, ?_, ?_, ?_⟩
    · exact hf.setRxfLen _
    · rw [← hmax]; exact hfit
    · simp only [State.setRxfLen_rxfLen, BitVec.toNat_ofNat]; omega
    · intro j _ hj
      rcases Nat.lt_or_ge j 2 with h | h
      · rcases Nat.lt_or_ge j 1 with h' | h'
        · obtain rfl : j = 0 := by omega
          exact ⟨_, h0⟩
        · obtain rfl : j = 1 := by omega
          exact ⟨_, h1⟩
      · exact hfill j h (by omega)
    · rw [← hf.cfg]; exact h0
    · exact ⟨_, h1, by omega⟩

/-- Everything one step of `Locate` can do from where it waits. -/
theorem locateStep_ok {i : Instr} {s : State} {k : Point} (limit : Time) (hk : inLocate k = true)
    (hok : s.locateOk i k) (hwf : s.rxf.wf 257 = true) :
    ∃ r, locateStep i (maxSizeOf i) limit k s = .ok r ∧ r.ok i s := by
  cases k <;> simp only [inLocate, Bool.false_eq_true] at hk <;> simp only [locateStep]
  case locateNow =>
    exact ⟨_, rfl, .huntRead, rfl, rfl, rfl,
      ((s.locateFrame_readNow.setDl _).setLocMax _).issue _ _ _, hwf, rfl⟩
  case huntRead =>
    simp only [locateHunt, locateOffset, State.rxRead_eq]
    cases ha : s.env.rxRead.1 with
    | err x => exact ⟨_, rfl, s.locateFrame_rxRead, hwf, rfl⟩
    | empty =>
      exact ⟨_, rfl, .huntNow, rfl, rfl, hok, s.locateFrame_rxRead.issue _ _ _, hwf, rfl⟩
    | byte b =>
      by_cases hb : b = s.cfg.marker
      · simp only [State.setEnv_cfg, hb, if_true]
        rw [State.memWrite_ok _ _ (by simp [BufName.size])]
        exact ⟨_, rfl, .sizeRead, rfl, rfl, ⟨hok, by simp⟩, (s.locateFrame_rxRead.setRxf _).issue _ _ _,
          Memory.wf_put hwf (by omega), rfl⟩
      · simp only [State.setEnv_cfg, hb, if_false]
        exact ⟨_, rfl, .huntNow, rfl, rfl, hok, s.locateFrame_rxRead.issue _ _ _, hwf, rfl⟩
  case huntNow =>
    refine ⟨_, rfl, locateTest_ok hwf ⟨.huntRead, rfl, rfl, hok, ?_, hwf, rfl⟩⟩
    exact s.locateFrame_readNow.issue _ _ _
  case sizeRead =>
    simp only [locateSize, locateOffset, State.rxRead_eq]
    cases ha : s.env.rxRead.1 with
    | err x => exact ⟨_, rfl, s.locateFrame_rxRead, hwf, rfl⟩
    | empty =>
      exact ⟨_, rfl, .sizeNow, rfl, rfl, hok, s.locateFrame_rxRead.issue _ _ _, hwf, rfl⟩
    | byte b =>
      simp only
      rw [State.memWrite_ok _ _ (by simp [BufName.size])]
      refine ⟨_, rfl, ?_⟩
      obtain ⟨hmax, h0⟩ := hok
      have hfr := (s.locateFrame_rxRead.setLocNeed b).setRxf (s.rxf.put 1 b)
      have hw : (s.rxf.put 1 b).wf 257 = true := Memory.wf_put hwf (by omega)
      dsimp only
      split
      · exact ⟨hfr, hw, rfl⟩
      · rename_i hfit
        refine locateBody_ok ?_ hw rfl hmax ?_ ?_ ?_ ?_ ?_
        · exact hfr.setLocCnt _
        · simpa [Memory.get?_put] using h0
        · simp
        · intro j h1 h2; simp at h2; omega
        · simp
        · simpa using hfit
  case sizeNow =>
    refine ⟨_, rfl, locateTest_ok hwf ⟨.sizeRead, rfl, rfl, hok, ?_, hwf, rfl⟩⟩
    exact s.locateFrame_readNow.issue _ _ _
  case bodyRead =>
    obtain ⟨hmax, h0, h1, hfill, hcnt, hfit⟩ := hok
    have hneed := s.locNeed.isLt
    simp only [locateByte, locateOffset, State.rxRead_eq]
    cases ha : s.env.rxRead.1 with
    | err x => exact ⟨_, rfl, s.locateFrame_rxRead, hwf, rfl⟩
    | empty =>
      exact ⟨_, rfl, .bodyNow, rfl, rfl, ⟨hmax, h0, h1, hfill, hcnt, hfit⟩,
        s.locateFrame_rxRead.issue _ _ _, hwf, rfl⟩
    | byte b =>
      simp only [State.setEnv_locCnt]
      rw [State.memWrite_ok _ _ (by simp only [BufName.size]; omega)]
      have hc : (s.locCnt + 1#9).toNat = s.locCnt.toNat + 1 := by
        rw [BitVec.toNat_add]; simp; omega
      refine ⟨_, rfl, locateBody_ok ?_ (Memory.wf_put hwf (by omega)) rfl hmax ?_ ?_ ?_ ?_ hfit⟩
      · exact (s.locateFrame_rxRead.setRxf _).setLocCnt _
      · simpa [Memory.get?_put, show ¬ (0 = 2 + s.locCnt.toNat) by omega] using h0
      · simpa [Memory.get?_put, show ¬ (1 = 2 + s.locCnt.toNat) by omega] using h1
      · intro j hj1 hj2
        simp only [State.setLocCnt_locCnt, State.setBuf_rxf, State.setRxf_locCnt, State.setEnv_locCnt,
          BitVec.ofNat_eq_ofNat, hc] at hj2
        simp only [State.setLocCnt_rxf, State.setBuf_rxf, State.setRxf_rxf, State.buf_rxf, State.setEnv_rxf,
          Memory.get?_put]
        split
        · exact ⟨b, rfl⟩
        · exact hfill j hj1 (by omega)
      · simp only [State.setLocCnt_locCnt, State.setBuf_rxf, State.setRxf_locCnt, State.setEnv_locCnt,
          BitVec.ofNat_eq_ofNat, hc, State.setLocCnt_locNeed, State.setRxf_locNeed, State.setEnv_locNeed]
        omega
  case bodyNow =>
    obtain ⟨hmax, h0, h1, hfill, hcnt, hfit⟩ := hok
    exact ⟨_, rfl, locateTest_ok hwf
      (locateBody_ok s.locateFrame_readNow hwf rfl hmax h0 h1 hfill (by simpa using Nat.le_of_lt hcnt) hfit)⟩

end Sys2Proof.Machine
end

