-- ==== Sys2Proof/Laws/Invariant.lean ====
section
/-! SUPPORT. How the shared operations keep what every register holds (`State.RegsOk`), one lemma for each. -/

namespace Sys2Proof.Machine

/-! ## Register writes -/

theorem State.RegsOk.setRspPending {s : State} (h : s.RegsOk) (x) : (s.setRspPending x).RegsOk :=
  ⟨h.1, h.2, h.3, h.4, h.5, h.6, h.7, h.8⟩

theorem State.RegsOk.setPhase {s : State} (h : s.RegsOk) (x) : (s.setPhase x).RegsOk :=
  ⟨h.1, h.2, h.3, h.4, h.5, h.6, h.7, h.8⟩

theorem State.RegsOk.setTxSeq {s : State} (h : s.RegsOk) (x) : (s.setTxSeq x).RegsOk :=
  ⟨h.1, h.2, h.3, h.4, h.5, h.6, h.7, h.8⟩

theorem State.RegsOk.setRxLast {s : State} (h : s.RegsOk) (x) : (s.setRxLast x).RegsOk :=
  ⟨h.1, h.2, h.3, h.4, h.5, h.6, h.7, h.8⟩

theorem State.RegsOk.setCtr {s : State} (h : s.RegsOk) (x) : (s.setCtr x).RegsOk :=
  ⟨h.1, h.2, h.3, h.4, h.5, h.6, h.7, h.8⟩

theorem State.RegsOk.inc {s : State} (h : s.RegsOk) (c) : (s.inc c).RegsOk := h.setCtr _

theorem State.RegsOk.setDl {s : State} (h : s.RegsOk) (x) : (s.setDl x).RegsOk :=
  ⟨h.1, h.2, h.3, h.4, h.5, h.6, h.7, h.8⟩

theorem State.RegsOk.setTries {s : State} (h : s.RegsOk) (x) : (s.setTries x).RegsOk :=
  ⟨h.1, h.2, h.3, h.4, h.5, h.6, h.7, h.8⟩

theorem State.RegsOk.setExpected {s : State} (h : s.RegsOk) (x) : (s.setExpected x).RegsOk :=
  ⟨h.1, h.2, h.3, h.4, h.5, h.6, h.7, h.8⟩

theorem State.RegsOk.setCsAcc {s : State} (h : s.RegsOk) {x : Byte} (hx : x.toNat < 250) : (s.setCsAcc x).RegsOk :=
  ⟨h.1, h.2, h.3, h.4, h.5, hx, h.7, h.8⟩

/-- An environment in which time has not gone back. -/
theorem State.RegsOk.setEnv {s : State} (h : s.RegsOk) {e : Env} (he : s.env.now ≤ e.now) : (s.setEnv e).RegsOk :=
  ⟨h.1, h.2, h.3, h.4, h.5, h.6, Nat.le_trans h.7 he, h.8⟩

/-! ## Requests and answers -/

theorem State.RegsOk.issue {s : State} (h : s.RegsOk) (i k r) : (s.issue i k r).RegsOk :=
  ⟨h.1, h.2, h.3, h.4, h.5, h.6, h.7, h.8⟩

theorem State.RegsOk.rxRead {s : State} (h : s.RegsOk) : (s.setEnv s.env.rxRead.2).RegsOk :=
  h.setEnv (Nat.le_of_eq s.env.rxRead_frame.1.symm)

theorem State.RegsOk.ctrlAnswer {s : State} (h : s.RegsOk) : (s.setEnv s.env.ctrlAnswer.2).RegsOk :=
  h.setEnv (Nat.le_of_eq s.env.ctrlAnswer_frame.1.symm)

theorem State.RegsOk.readNow {s : State} (h : s.RegsOk) : (s.setEnv s.env.readNow.2).RegsOk :=
  h.setEnv (by rw [s.env.readNow_frame.2.1]; exact s.env.readNow_frame.1)

/-- A response ends in a safe state. -/
theorem State.RegsOk.respond {s : State} (h : s.RegsOk) {r : Response} (hr : r.n.toNat = r.d.length) :
    (s.respond r).Inv :=
  ⟨⟨h.1, h.2, h.3, h.4, h.5, h.6, h.7, hr⟩, trivial⟩

theorem State.RegsOk.raise {s : State} (h : s.RegsOk) (st : Status) : (s.raise st).Inv := h.respond rfl

theorem State.RegsOk.raiseTransport {s : State} (h : s.RegsOk) (x : Int) : (s.raiseTransport x).Inv := h.respond rfl

/-! ## Procedures -/

theorem State.RegsOk.encoded {s : State} (h : s.RegsOk) {p : List Byte} (seq : Byte) (hp : p.length ≤ 253) :
    (s.encoded p seq).RegsOk :=
  ⟨Memory.wf_putAll h.1 (by rw [frameBytes_length]; omega), h.2, h.3,
    by simp only [State.encoded, State.setTxfLen_txfLen]; rw [lenOf_frame hp]; omega, h.5, checksumOf_lt _ _ _, h.7, h.8⟩

theorem State.RegsOk.loaded {s : State} (h : s.RegsOk) {n : Len} {d : List Byte} (hd : d.length ≤ 257)
    (hn : n.toNat ≤ 257) : ((s.setRxf (s.rxf.putAll 0 d)).setRxfLen n).RegsOk :=
  ⟨h.1, Memory.wf_putAll h.2 (by omega), h.3, h.4, hn, h.6, h.7, h.8⟩

theorem State.RegsOk.ackBuilt {s : State} (h : s.RegsOk) (kind : AckKind) (seq : Byte) :
    (s.ackBuilt kind seq).RegsOk :=
  ⟨h.1, h.2, Memory.wf_putAll h.3 (by simp [ackBytes]), h.4, h.5, checksumOf_lt _ _ _, h.7, h.8⟩

theorem State.RegsOk.verified {s : State} (h : s.RegsOk) (f : List Byte) :
    (if f.length < 4 then s else s.setCsAcc (csFold 0 (coveredBytes f))).RegsOk := by
  split
  · exact h
  · exact h.setCsAcc (csFold_lt (by decide) _)

/-- What `Locate` leaves is what every register holds. -/
theorem State.RegsOk.located {s t : State} (h : s.RegsOk) (hf : s.locateFrame t) (hwf : t.rxf.wf 257 = true)
    (hl : t.rxfLen.toNat ≤ 257) : t.RegsOk :=
  ⟨hf.txf ▸ h.1, hwf, hf.akf ▸ h.3, hf.txfLen ▸ h.4, hl, hf.csAcc ▸ h.6,
    by rw [hf.connStart]; exact Nat.le_trans h.7 hf.now, by rw [hf.rsp]; exact h.8⟩

end Sys2Proof.Machine
end

