-- ==== Sys2Proof/Laws/LocateStep.lean ====
section
/-! SUPPORT. What one step of the locate procedure can do from any state whatever, the ones no run reaches among them
(spec/41_frame_codec.md R133, R134). Sys2Proof/Laws/Locate.lean says more of the states in which a command waits there.
-/

namespace Sys2Proof.Machine

/-- A mapped answer is an answer. -/
theorem except_map_eq_ok {α β : Type} {x : Except Fault α} {f : α → β} {y : β} (h : x.map f = .ok y) :
    ∃ a, x = .ok a ∧ f a = y := by
  cases x <;> simp_all [Except.map]

/-- A one-byte write that goes through. -/
theorem State.memWrite_rxf_eq {s t : State} {i : Nat} {v : Byte} (h : s.memWrite .rxf i v = .ok t) :
    t = s.setRxf (s.rxf.put i v) := by
  simp only [State.memWrite, Memory.write] at h
  split at h
  · cases h; rfl
  · cases h

/-- What a step of `Locate` made at `k` reads and stores: one answer of the receive port or one reading of the time,
and at most the byte that was read, at its offset. -/
structure LocateEffect (k : Point) (s : State) (e : Env) (m : Memory) : Prop where
  env : (readsStream k = true ∧ readsTime k = false ∧ e = s.env.rxRead.2) ∨
    (readsTime k = true ∧ readsStream k = false ∧ e = s.env.readNow.2)
  mem : m = s.rxf ∨ (readsStream k = true ∧ ∃ b, s.env.rxRead.1 = .byte b ∧ m = s.rxf.put (locateOffset k s) b)
  point : inLocate k = true

/-- `s` after a step of `Locate`: its environment, buffer and working registers. -/
def State.afterLocate (s : State) (e : Env) (dl : Time) (max : Len) (need : Byte) (cnt : Len) (m : Memory) : State :=
  { s with env := e, dl := dl, locMax := max, locNeed := need, locCnt := cnt, rxf := m }

/-- The form of every answer of `Locate`: it waits at another of its points, having issued one request, or it returns;
`NoFrame` only from a deadline that was reached or a size byte that does not fit. -/
def LocateStep.form (i : Instr) (k : Point) (s : State) (r : LocateStep) : Prop :=
  ∃ e dl max need cnt m, LocateEffect k s e m ∧ (dl = s.dl ∨ k = .locateNow) ∧
    match r with
    | .waits t =>
      ∃ k' q, inLocate k' = true ∧ (q = .now ∨ q = .rxRead) ∧
        t = (s.afterLocate e dl max need cnt m).issue i k' q
    | .returns res t =>
      ∃ len, t = (s.afterLocate e dl max need cnt m).setRxfLen len ∧
        (res = .noFrame →
          ((k = .huntNow ∨ k = .sizeNow ∨ k = .bodyNow) ∧ s.dl ≤ e.now) ∨
            (k = .sizeRead ∧ s.locMax.toNat < 2 + need.toNat))

theorem locateBody_form {i : Instr} {k : Point} {s : State} {e : Env} {dl : Time} {max cnt : Len} {need : Byte}
    {m : Memory} (hd : dl = s.dl ∨ k = .locateNow) (hf : LocateEffect k s e m) :
    (locateBody i (s.afterLocate e dl max need cnt m)).form i k s := by
  unfold locateBody
  split
  · exact ⟨e, dl, max, need, cnt, m, hf, hd, .bodyRead, .rxRead, rfl, .inr rfl, rfl⟩
  · exact ⟨e, dl, max, need, cnt, m, hf, hd, _, rfl, fun h => by cases h⟩

/-- What a step that has read the receive port touches. -/
theorem LocateEffect.read {k : Point} (hr : readsStream k = true) (ht : readsTime k = false) (hk : inLocate k = true)
    (s : State) : LocateEffect k s s.env.rxRead.2 s.rxf :=
  ⟨.inl ⟨hr, ht, rfl⟩, .inl rfl, hk⟩

/-- What a step that has read the time touches. -/
theorem LocateEffect.time {k : Point} (hr : readsStream k = false) (ht : readsTime k = true) (hk : inLocate k = true)
    (s : State) : LocateEffect k s s.env.readNow.2 s.rxf :=
  ⟨.inr ⟨ht, hr, rfl⟩, .inl rfl, hk⟩

/-- The form of a transport failure. -/
theorem locateErr_form {i : Instr} {k : Point} {s : State} {x : Int} (h : LocateEffect k s s.env.rxRead.2 s.rxf) :
    (LocateStep.returns (.transportErr x) (s.setEnv s.env.rxRead.2)).form i k s :=
  ⟨_, s.dl, s.locMax, s.locNeed, s.locCnt, s.rxf, h, .inl rfl, s.rxfLen, rfl, fun h => by cases h⟩

/-- The form of a read that is followed by another point, with nothing stored. -/
theorem locateWait_form {i : Instr} {k k' : Point} {s : State} {e : Env} {q : Request} (h : LocateEffect k s e s.rxf)
    (hk : inLocate k' = true) (hq : q = .now ∨ q = .rxRead) :
    (LocateStep.waits ((s.setEnv e).issue i k' q)).form i k s :=
  ⟨e, s.dl, s.locMax, s.locNeed, s.locCnt, s.rxf, h, .inl rfl, k', q, hk, hq, rfl⟩

/-- The form of a deadline test. -/
theorem locateTest_form {i : Instr} {k : Point} {s : State} {go : State → LocateStep}
    (hk : k = .huntNow ∨ k = .sizeNow ∨ k = .bodyNow) (hgo : (go (s.setEnv s.env.readNow.2)).form i k s) :
    (locateTest s go).form i k s := by
  unfold locateTest
  split
  · rename_i hel
    refine ⟨s.env.readNow.2, s.dl, s.locMax, s.locNeed, s.locCnt, s.rxf,
      .time (by rcases hk with rfl | rfl | rfl <;> rfl) (by rcases hk with rfl | rfl | rfl <;> rfl)
        (by rcases hk with rfl | rfl | rfl <;> rfl) s, .inl rfl, s.rxfLen, rfl, fun _ => .inl ⟨hk, ?_⟩⟩
    rw [s.env.readNow_frame.2.1]
    exact (elapsed_eq_true _ _).1 hel
  · exact hgo

/-- Everything a step of `Locate` can do, from any state. -/
theorem locateStep_form {i : Instr} {s : State} {k : Point} {max : Len} {limit : Time} {r : LocateStep}
    (h : locateStep i max limit k s = .ok r) : r.form i k s := by
  cases k <;> simp only [locateStep] at h <;> try (cases h; done)
  case locateNow =>
    cases h
    exact ⟨s.env.readNow.2, _, _, s.locNeed, s.locCnt, s.rxf, .time rfl rfl rfl s, .inr rfl, .huntRead, .rxRead, rfl,
      .inr rfl, rfl⟩
  case huntRead =>
    simp only [locateHunt, State.rxRead_eq] at h
    cases ha : s.env.rxRead.1 <;> simp only [ha] at h
    case err => cases h; exact locateErr_form (.read rfl rfl rfl s)
    case empty => cases h; exact locateWait_form (.read rfl rfl rfl s) rfl (.inl rfl)
    case byte b =>
      split at h
      · obtain ⟨t, ht, rfl⟩ := except_map_eq_ok h
        obtain rfl := State.memWrite_rxf_eq ht
        exact ⟨_, s.dl, s.locMax, s.locNeed, s.locCnt, _,
          ⟨(LocateEffect.read rfl rfl rfl s).env, .inr ⟨rfl, b, ha, rfl⟩, rfl⟩, .inl rfl, .sizeRead, .rxRead, rfl,
          .inr rfl, rfl⟩
      · cases h; exact locateWait_form (.read rfl rfl rfl s) rfl (.inl rfl)
  case sizeRead =>
    simp only [locateSize, State.rxRead_eq] at h
    cases ha : s.env.rxRead.1 <;> simp only [ha] at h
    case err => cases h; exact locateErr_form (.read rfl rfl rfl s)
    case empty => cases h; exact locateWait_form (.read rfl rfl rfl s) rfl (.inl rfl)
    case byte b =>
      obtain ⟨t, ht, rfl⟩ := except_map_eq_ok h
      obtain rfl := State.memWrite_rxf_eq ht
      have hf : LocateEffect .sizeRead s s.env.rxRead.2 (s.rxf.put 1 b) :=
        ⟨(LocateEffect.read rfl rfl rfl s).env, .inr ⟨rfl, b, ha, rfl⟩, rfl⟩
      split
      · rename_i hlt
        exact ⟨_, s.dl, s.locMax, b, s.locCnt, _, hf, .inl rfl, s.rxfLen, rfl, fun _ => .inr ⟨rfl, hlt⟩⟩
      · exact locateBody_form (max := s.locMax) (need := b) (cnt := 0) (.inl rfl) hf
  case bodyRead =>
    simp only [locateByte, State.rxRead_eq] at h
    cases ha : s.env.rxRead.1 <;> simp only [ha] at h
    case err => cases h; exact locateErr_form (.read rfl rfl rfl s)
    case empty => cases h; exact locateWait_form (.read rfl rfl rfl s) rfl (.inl rfl)
    case byte b =>
      obtain ⟨t, ht, rfl⟩ := except_map_eq_ok h
      obtain rfl := State.memWrite_rxf_eq ht
      exact locateBody_form (max := s.locMax) (need := s.locNeed) (cnt := s.locCnt + 1) (.inl rfl)
        ⟨(LocateEffect.read rfl rfl rfl s).env, .inr ⟨rfl, b, ha, rfl⟩, rfl⟩
  all_goals
    cases h
    refine locateTest_form (by simp) ?_
  · exact locateWait_form (.time rfl rfl rfl s) rfl (.inr rfl)
  · exact locateWait_form (.time rfl rfl rfl s) rfl (.inr rfl)
  · exact locateBody_form (max := s.locMax) (need := s.locNeed) (cnt := s.locCnt) (.inl rfl) (.time rfl rfl rfl s)

end Sys2Proof.Machine
end

