-- ==== Sys2Proof/Laws/PerInstr.lean ====
section
/-! SUPPORT. Statements made per instruction: one family, about a command's record (spec/30_encoding.md R84, R87). -/

namespace Sys2Proof.Laws

/-- R84, R87: the record of a command has an assigned opcode, and its length field and data bytes are the command's
own, or zero and empty where the command reads none. -/
def EncodedOp.Statement (i : Instr) : Prop :=
  1 ≤ (encodeInstr i).op.toNat ∧ (encodeInstr i).op.toNat ≤ 15 ∧
    match Machine.dataLength i with
    | some n => (encodeInstr i).n = n
    | none => (encodeInstr i).n = 0 ∧ (encodeInstr i).d = []

theorem EncodedOp.csCompute (a b : Byte) (n : Len) (d : List Byte) : EncodedOp.Statement (.csCompute a b n d) :=
  ⟨by simp [encodeInstr], by simp [encodeInstr], rfl⟩

theorem EncodedOp.csVerify (n : Len) (d : List Byte) : EncodedOp.Statement (.csVerify n d) :=
  ⟨by simp [encodeInstr], by simp [encodeInstr], rfl⟩

theorem EncodedOp.encode (a : Byte) (n : Len) (d : List Byte) : EncodedOp.Statement (.encode a n d) :=
  ⟨by simp [encodeInstr], by simp [encodeInstr], rfl⟩

theorem EncodedOp.decode (n : Len) (d : List Byte) (c : Len) : EncodedOp.Statement (.decode n d c) :=
  ⟨by simp [encodeInstr], by simp [encodeInstr], rfl⟩

theorem EncodedOp.locate (c : Len) (t : Time) : EncodedOp.Statement (.locate c t) :=
  ⟨by simp [encodeInstr], by simp [encodeInstr], rfl, rfl⟩

theorem EncodedOp.setDeadline (t : Time) : EncodedOp.Statement (.setDeadline t) :=
  ⟨by simp [encodeInstr], by simp [encodeInstr], rfl, rfl⟩

theorem EncodedOp.isElapsed : EncodedOp.Statement .isElapsed :=
  ⟨by simp [encodeInstr], by simp [encodeInstr], rfl, rfl⟩

theorem EncodedOp.connect (a : Byte) : EncodedOp.Statement (.connect a) :=
  ⟨by simp [encodeInstr], by simp [encodeInstr], rfl, rfl⟩

theorem EncodedOp.disconnect : EncodedOp.Statement .disconnect :=
  ⟨by simp [encodeInstr], by simp [encodeInstr], rfl, rfl⟩

theorem EncodedOp.sendBasic (n : Len) (d : List Byte) : EncodedOp.Statement (.sendBasic n d) :=
  ⟨by simp [encodeInstr], by simp [encodeInstr], rfl⟩

theorem EncodedOp.sendReliable (n : Len) (d : List Byte) : EncodedOp.Statement (.sendReliable n d) :=
  ⟨by simp [encodeInstr], by simp [encodeInstr], rfl⟩

theorem EncodedOp.recvBasic (c : Len) : EncodedOp.Statement (.recvBasic c) :=
  ⟨by simp [encodeInstr], by simp [encodeInstr], rfl, rfl⟩

theorem EncodedOp.recvReliable (c : Len) : EncodedOp.Statement (.recvReliable c) :=
  ⟨by simp [encodeInstr], by simp [encodeInstr], rfl, rfl⟩

theorem EncodedOp.sendAck (a : Byte) (kind : AckKind) : EncodedOp.Statement (.sendAck a kind) :=
  ⟨by simp [encodeInstr], by simp [encodeInstr], rfl, rfl⟩

theorem EncodedOp.getOptBlock : EncodedOp.Statement .getOptBlock :=
  ⟨by simp [encodeInstr], by simp [encodeInstr], rfl, rfl⟩

end Sys2Proof.Laws
end

