-- ==== Sys2Proof/Tests/Slice0.lean ====
section
/-! SUPPORT. The model's own tests. Expected results come from spec/95_test_vectors.md (named in each comment), from
the encoding table of spec/30_encoding.md, or from a hand calculation over the rule named. After them stand the
witnesses: for every statement of Certificates/Slice0/Obligations.lean, states and operands that meet its hypotheses. -/

namespace Sys2Proof.Tests

open Sys2Proof.Machine

/-! ## Helpers -/

/-- The test configuration TC (95_test_vectors.md, part 0). -/
def tc : Config :=
  { marker := 0x7E, statusAck := 0x06, statusNak := 0x15, maxTries := 3, txWait := 2, rxWait := 5, maxBlock := 253,
    optBlock := 128, corruptSentinel := [0xBA, 0xD0] }

/-- Right after reset, with TC. -/
def fresh : State := State.resetFor tc {}

/-- In session. -/
def linked : State := { fresh with phase := .connected }

/-- `s` with command `i` running at `k`. -/
def State.at (s : State) (i : Instr) (k : Point) : State := { s with ustate := .busy i k }

/-- `s` with these bytes coming in the receive stream. -/
def State.hears (s : State) (bytes : List Byte) : State := { s with env := { s.env with rx := bytes.map .byte } }

/-- `s` with this record at the command port. -/
def State.asked (s : State) (c : Command) : State := { s with env := { s.env with cmds := [c] } }

/-- The answer is a next state of which `f` holds. -/
def got (o : Out) (f : State → Bool) : Bool :=
  match o with
  | .next t => f t
  | .fault _ => false
  | .refused _ => false

/-- The answer is this fault. -/
def stuck (o : Out) (e : Fault) : Bool :=
  match o with
  | .next _ => false
  | .fault x => x == e
  | .refused _ => false

theorem got_next {o : Out} {f : State → Bool} (h : got o f = true) : ∃ t, o = .next t ∧ f t = true := by
  cases o with
  | next t => exact ⟨t, rfl, h⟩
  | fault _ => cases h
  | refused _ => cases h

/-- The payload of many vectors. -/
def abc : List Byte := [0x01, 0x02, 0x03]

/-- Its frame with seqNum 0 (V-FC-1). -/
def abcFrame : List Byte := [0x7E, 0x05, 0x00, 0x01, 0x02, 0x03, 0x0B]

/-- `s` with this frame in `rxf`. -/
def State.holding (s : State) (f : List Byte) : State := { s with rxf := s.rxf.putAll 0 f }

/-! ## Well-formedness and valid configurations -/

/-- R84: a data operand longer than `n` is ill-formed, for each command with one. -/
theorem test_illformed_long :
    (Instr.csCompute 0 0 0 [0x00]).wf = false ∧ (Instr.csVerify 2 abc).wf = false ∧
      (Instr.encode 0 2 abc).wf = false ∧ (Instr.decode 2 abc 0).wf = false ∧ (Instr.sendBasic 2 abc).wf = false ∧
      (Instr.sendReliable 2 abc).wf = false := by decide

/-- R84: so is a shorter one, for `n` up to 257. -/
theorem test_illformed_short :
    (Instr.csCompute 0 0 4 abc).wf = false ∧ (Instr.csVerify 257 abc).wf = false ∧
      (Instr.encode 0 4 abc).wf = false ∧ (Instr.decode 4 abc 0).wf = false ∧ (Instr.sendBasic 4 abc).wf = false ∧
      (Instr.sendReliable 257 abc).wf = false := by decide

/-- R84, R90: equal length is well-formed; above 257 the bytes may be fewer. -/
theorem test_wellformed :
    (Instr.csCompute 0 0 3 abc).wf = true ∧ (Instr.csVerify 258 abc).wf = true ∧ (Instr.locate 511 0).wf = true := by
  decide

set_option maxRecDepth 8192 in
/-- R7: the five conditions, each broken alone at its boundary, and a configuration that meets all at theirs. -/
theorem test_invalid_configs :
    (Config.ofParams? { tc with statusNak := 0x06 }).isNone = true ∧
      (Config.ofParams? { tc with maxTries := 0 }).isNone = true ∧
      (Config.ofParams? { tc with maxBlock := 254 }).isNone = true ∧
      (Config.ofParams? { tc with optBlock := 254 }).isNone = true ∧
      (Config.ofParams? { tc with corruptSentinel := List.replicate 254 0 }).isNone = true ∧
      (Config.ofParams? { tc with maxTries := 1, optBlock := 253, corruptSentinel := List.replicate 253 0 }).isSome =
        true := by
  decide

/-! ## Decoding: records written out from R84 and R87 -/

theorem test_decode_csCompute :
    decodeCommand { op := 0b00000001, a := 0x0F, b := 0x03, n := 1, d := [0xFF] } =
      .ok (.csCompute 0x0F 0x03 1 [0xFF]) := by rfl

theorem test_decode_csVerify :
    decodeCommand { op := 0b00000010, a := 0xFF, n := 2, d := [0x7E, 0x01, 0x55] } = .ok (.csVerify 2 [0x7E, 0x01]) := by
  rfl

theorem test_decode_encode :
    decodeCommand { op := 0b00000011, a := 0x03, n := 2, d := [0x10, 0x20] } = .ok (.encode 0x03 2 [0x10, 0x20]) := by
  rfl

theorem test_decode_decode :
    decodeCommand { op := 0b00000100, n := 4, c := 511, d := [0x7E, 0x02, 0x00, 0x02] } =
      .ok (.decode 4 [0x7E, 0x02, 0x00, 0x02] 511) := by rfl

theorem test_decode_locate : decodeCommand { op := 0b00000101, c := 257, t := 5 } = .ok (.locate 257 5) := by rfl

theorem test_decode_setDeadline : decodeCommand { op := 0b00000110, c := 9, t := 10 } = .ok (.setDeadline 10) := by rfl

theorem test_decode_isElapsed : decodeCommand { op := 0b00000111, t := 10 } = .ok .isElapsed := by rfl

theorem test_decode_connect : decodeCommand { op := 0b00001000, a := 0x01 } = .ok (.connect 0x01) := by rfl

theorem test_decode_disconnect : decodeCommand { op := 0b00001001, a := 0x01 } = .ok .disconnect := by rfl

theorem test_decode_sendBasic :
    decodeCommand { op := 0b00001010, n := 1, d := [0x01] } = .ok (.sendBasic 1 [0x01]) := by rfl

theorem test_decode_sendReliable :
    decodeCommand { op := 0b00001011, n := 3, d := abc } = .ok (.sendReliable 3 abc) := by rfl

theorem test_decode_recvBasic : decodeCommand { op := 0b00001100, c := 255 } = .ok (.recvBasic 255) := by rfl

theorem test_decode_recvReliable : decodeCommand { op := 0b00001101, c := 255 } = .ok (.recvReliable 255) := by rfl

/-- R174: only bit 0 of `b` names the kind. -/
theorem test_decode_sendAck :
    decodeCommand { op := 0b00001110, a := 0x0F, b := 0x03 } = .ok (.sendAck 0x0F .pos) ∧
      decodeCommand { op := 0b00001110, a := 0x0F, b := 0xFE } = .ok (.sendAck 0x0F .neg) := ⟨rfl, rfl⟩

theorem test_decode_getOptBlock : decodeCommand { op := 0b00001111 } = .ok .getOptBlock := by rfl

/-- R89: 0x00 and 0x10 to 0xFF are rejected by name (the boundary values). -/
theorem test_decode_unassigned :
    decodeCommand { op := 0x00 } = .error (.illegalOpcode 0x00) ∧
      decodeCommand { op := 0x10 } = .error (.illegalOpcode 0x10) ∧
      decodeCommand { op := 0xFF, n := 400 } = .error (.illegalOpcode 0xFF) := ⟨rfl, rfl, rfl⟩

/-- R84: a record that lacks data bytes is rejected by name. -/
theorem test_decode_short : decodeCommand { op := 0x02, n := 3, d := [0x7E] } = .error (.shortData 3 1) := by rfl

/-- The words of spec/opcode_table.json. -/
theorem test_table_words :
    decodeTableWord 8 0x01 = some (.csCompute 0 0 0 []) ∧ decodeTableWord 8 0x0E = some (.sendAck 0 .neg) ∧
      decodeTableWord 8 0x0F = some .getOptBlock ∧ decodeTableWord 8 0x10 = none := ⟨rfl, rfl, rfl, rfl⟩

/-- A placed word is what the very next step runs: CS_COMPUTE of nothing answers OK. -/
theorem test_placed_word_runs :
    got (step (State.reset.withFetchWord 8 0x01)) (fun t => t.rspPending && t.rsp.status == .ok) = true := by decide

/-- A placed CONNECT waits on `XOpen`. -/
theorem test_placed_connect_runs :
    got (step (State.reset.withFetchWord 8 0x08)) (fun t => t.ustate == .busy (.connect 0) .xOpen) = true := by decide

/-- R88: the codes. -/
theorem test_status_codes :
    [Status.ok, .notConnected, .payloadTooLarge, .transportError, .timeout, .incomplete, .giveUp, .alreadyConnected,
      .frameLength, .badOperand, .illegalOpcode].map Status.code =
      [0x00, 0x01, 0x02, 0x03, 0x04, 0x05, 0x06, 0x07, 0x08, 0x09, 0x0A] := by decide

/-! ## checksum_unit -/

/-- V-CS-1, V-CS-5. -/
theorem test_csCompute :
    got (exec (.csCompute 0x00 0x05 3 abc) fresh) (fun t => t.rsp == { v := 0x0B } && t.csAcc == 0x0B) = true ∧
      got (exec (.csCompute 0x0F 0x03 1 [0xFF]) fresh) (fun t => t.rsp == { v := 0x17 }) = true := by decide

/-- V-CS-4, V-CS-7, V-CS-20. -/
theorem test_csCompute_modulus :
    got (exec (.csCompute 0x00 0x03 1 [0xF7]) fresh) (fun t => t.rsp == { v := 0x00 }) = true ∧
      got (exec (.csCompute 0x00 0x03 1 [0xFA]) fresh) (fun t => t.rsp == { v := 0x03 }) = true ∧
      got (exec (.csCompute 0x00 0x03 258 []) fresh) (fun t => t.rsp == { status := .badOperand } && t.csAcc == 0) =
        true := by decide

/-- V-CS-10, V-CS-11, V-CS-12, V-CS-13. -/
theorem test_csVerify :
    got (exec (.csVerify 7 abcFrame) fresh) (fun t => t.rsp == { v := 1 } && t.rxfLen == 7) = true ∧
      got (exec (.csVerify 7 [0x7E, 0x05, 0x00, 0x01, 0x02, 0x03, 0x0C]) fresh) (fun t => t.rsp == { v := 0 }) = true ∧
      got (exec (.csVerify 7 [0x7F, 0x05, 0x00, 0x01, 0x02, 0x03, 0x0B]) fresh) (fun t => t.rsp == { v := 1 }) = true ∧
      got (exec (.csVerify 3 [0x7E, 0x01, 0x00]) fresh) (fun t => t.rsp == { v := 0 }) = true := by decide

/-- V-CS-14, V-CS-15, V-CS-16. -/
theorem test_csVerify_corners :
    got (exec (.csVerify 4 [0x7E, 0x02, 0xF8, 0xFA]) fresh) (fun t => t.rsp == { v := 0 }) = true ∧
      got (exec (.csVerify 4 [0x7E, 0x02, 0xF8, 0x00]) fresh) (fun t => t.rsp == { v := 1 }) = true ∧
      got (exec (.csVerify 4 [0x7E, 0x09, 0x00, 0x09]) fresh) (fun t => t.rsp == { v := 1 }) = true := by decide

/-! ## frame_codec -/

/-- V-FC-1, V-FC-3, V-FC-6. -/
theorem test_encode :
    got (exec (.encode 0x00 3 abc) fresh)
        (fun t => t.rsp == { n := 7, d := abcFrame } && t.txfLen == 7 && t.txf.holds 0 abcFrame) = true ∧
      got (exec (.encode 0x20 0 []) fresh) (fun t => t.rsp == { n := 4, d := [0x7E, 0x02, 0x20, 0x22] }) = true ∧
      got (exec (.encode 0x00 1 [0x7E]) fresh) (fun t => t.rsp == { n := 5, d := [0x7E, 0x03, 0x00, 0x7E, 0x81] }) =
        true := by decide

set_option maxRecDepth 8192 in
/-- V-FC-7, V-FC-8: refused above 253 and above 257 bytes (254 data bytes stand behind the first). -/
theorem test_encode_tooLong :
    got (exec (.encode 0x00 254 (List.replicate 254 0xFF)) fresh)
        (fun t => t.rsp == { status := .payloadTooLarge } && t.txf == []) = true ∧
      got (exec (.encode 0x00 258 []) fresh) (fun t => t.rsp == { status := .badOperand }) = true := by decide

/-- V-FC-9, V-FC-11, V-FC-13. -/
theorem test_decode :
    got (exec (.decode 7 abcFrame 2) fresh) (fun t => t.rsp == { n := 2, d := [0x01, 0x02] }) = true ∧
      got (exec (.decode 7 abcFrame 0) fresh) (fun t => t.rsp == {}) = true ∧
      got (exec (.decode 7 [0x7E, 0x05, 0x00, 0x01, 0x02, 0x03, 0x0C] 255) fresh)
        (fun t => t.rsp == { n := 3, d := abc }) = true := by decide

/-- V-FC-14, V-FC-15. -/
theorem test_decode_lengths :
    got (exec (.decode 5 [0x7E, 0x09, 0x03, 0xAA, 0x00] 255) fresh)
        (fun t => t.rsp == { v := 0x03, n := 1, d := [0xAA] }) = true ∧
      got (exec (.decode 3 [0x7E, 0x09, 0x03] 255) fresh) (fun t => t.rsp == { status := .frameLength } && t.rxf == []) =
        true := by decide

/-- V-FC-18: the size byte 0 ends the frame at 2 bytes; V-FC-17 and V-FC-24: a size that does not fit ends in TIMEOUT. -/
theorem test_locate_size :
    got (exec (.locate 257 5)
        (State.hears (State.at { linked with rxf := [(0, 0x7E)], locMax := 257, dl := 5 } (.locate 257 5) .sizeRead)
          [0x00])) (fun t => t.rsp == { n := 2, d := [0x7E, 0x00] } && t.rxfLen == 2) = true ∧
      got (exec (.locate 10 5)
        (State.hears (State.at { linked with rxf := [(0, 0x7E)], locMax := 10, dl := 5 } (.locate 10 5) .sizeRead) [0x7E]))
        (fun t => t.rsp == { status := .timeout }) = true ∧
      got (exec (.locate 1 5)
        (State.hears (State.at { linked with rxf := [(0, 0x7E)], locMax := 1, dl := 5 } (.locate 1 5) .sizeRead)
          [0x02, 0x00, 0x02])) (fun t => t.rsp == { status := .timeout } && t.env.rx == [.byte 0x00, .byte 0x02]) =
        true := by decide

/-- V-FC-20, V-FC-26: a test at the deadline ends in TIMEOUT, but a marker read there is taken; V-FC-25. -/
theorem test_locate_deadline :
    got (exec (.locate 257 0) (State.at { linked with env := { ticks := [1] } } (.locate 257 0) .huntNow))
        (fun t => t.rsp == { status := .timeout }) = true ∧
      got (exec (.locate 257 5) (State.hears (State.at { linked with dl := 5, env := { now := 5 } } (.locate 257 5)
        .huntRead) [0x7E])) (fun t => t.ustate == .busy (.locate 257 5) .sizeRead) = true ∧
      got (exec (.locate 257 5) fresh) (fun t => t.rsp == { status := .notConnected } && t.env.log == []) = true := by
  decide

/-! ## timer_comparator -/

/-- V-TM-1. -/
theorem test_setDeadline :
    got (exec (.setDeadline 5) (State.at { fresh with env := { ticks := [100] } } (.setDeadline 5) .deadlineNow))
      (fun t => t.rsp == { t := 105 } && t.dl == 105) = true := by decide

/-- V-TM-2, V-TM-3, V-TM-6. -/
theorem test_isElapsed :
    got (exec .isElapsed (State.at { fresh with dl := 105, env := { ticks := [104] } } .isElapsed .elapsedNow))
        (fun t => t.rsp == { v := 0 }) = true ∧
      got (exec .isElapsed (State.at { fresh with dl := 105, env := { ticks := [105] } } .isElapsed .elapsedNow))
        (fun t => t.rsp == { v := 1 }) = true ∧
      got (exec .isElapsed (State.at { fresh with env := { ticks := [0] } } .isElapsed .elapsedNow))
        (fun t => t.rsp == { v := 1 }) = true := by decide

/-- V-TM-7: a locate overwrites the host's deadline 105 with its own, 103. -/
theorem test_locate_overwrites_deadline :
    got (exec (.locate 257 2) (State.at { linked with dl := 105, env := { now := 100, ticks := [1] } } (.locate 257 2)
      .locateNow)) (fun t => t.dl == 103) = true := by decide

/-! ## arq_fsm: the session -/

/-- V-ARQ-1, at its last step; V-ARQ-2. -/
theorem test_connect :
    got (exec (.connect 0x01) (State.at { fresh with env := { now := 4, ticks := [0] } } (.connect 0x01) .connectNow))
        (fun t => t.rsp == {} && t.phase == .connected && t.connStart == 4) = true ∧
      got (exec (.connect 0x01) linked) (fun t => t.rsp == { status := .alreadyConnected } && t.env.log == []) =
        true := by decide

/-- V-ARQ-3, and V-ARQ-1 after its open: the session's registers are initialised. -/
theorem test_connect_open :
    got (exec (.connect 0x02) (State.at { fresh with txSeq := 4, env := { ctrl := [.err (-3)] } } (.connect 0x02) .xOpen))
        (fun t => t.rsp == { status := .transportError, x := -3 } && t.phase == .disconnected && t.txSeq == 4) =
        true ∧
      got (exec (.connect 0x01)
        (State.at { fresh with txSeq := 4, rxLast := 2, ctr := { timeouts := 7 }, env := { ctrl := [.ok] } }
          (.connect 0x01) .xOpen))
        (fun t => t.txSeq == 0 && t.rxLast == 15 && t.ctr == {} && t.env.log == [.now]) = true := by decide

/-- V-ARQ-5, at its last step; V-ARQ-4. -/
theorem test_disconnect :
    got (exec .disconnect (State.at { linked with env := { ticks := [9] } } .disconnect (.disconnectNow (.err 7))))
        (fun t => t.rsp == { status := .transportError, x := 7, report := { duration := 9 } } &&
          t.phase == .disconnected) = true ∧
      got (exec .disconnect fresh) (fun t => t.rsp == { status := .notConnected } && t.env.log == []) = true := by
  decide

/-- P1, command 3: the report. -/
theorem test_disconnect_report :
    got (exec .disconnect (State.at { linked with
        ctr := { framesSent := 1, acksRcvd := 1 }, env := { ticks := [3] } } .disconnect (.disconnectNow .ok)))
      (fun t => t.rsp == { report := { duration := 3, framesSent := 1, acksRcvd := 1 } }) = true := by decide

/-- V-ARQ-31. -/
theorem test_getOptBlock :
    got (exec .getOptBlock fresh) (fun t => t.rsp == { v := 128 }) = true ∧
      got (exec .getOptBlock linked) (fun t => t.rsp == { v := 128 }) = true := by decide

/-! ## arq_fsm: sends -/

/-- L1-2: the frames. -/
theorem test_sendAck_frames :
    got (exec (.sendAck 0x0F .pos) linked)
        (fun t => t.env.log == [.txWrite [0x7E, 0x03, 0x0F, 0x06, 0x18]]) = true ∧
      got (exec (.sendAck 0x01 .neg) linked)
        (fun t => t.env.log == [.txWrite [0x7E, 0x03, 0x01, 0x15, 0x19]]) = true := by decide

/-- R173, R174: a complete write is counted by kind; 4 bytes of 5 are not. -/
theorem test_sendAck_counts :
    got (exec (.sendAck 0 .neg) (State.at { linked with env := { tx := [.count 5] } } (.sendAck 0 .neg) .ackWrite))
        (fun t => t.rsp == {} && t.ctr == { naksSent := 1 }) = true ∧
      got (exec (.sendAck 0 .pos) (State.at { linked with env := { tx := [.count 4] } } (.sendAck 0 .pos) .ackWrite))
        (fun t => t.rsp == { status := .incomplete } && t.ctr == {}) = true := by decide

/-- V-ARQ-6, its write; V-ARQ-7, its frame. -/
theorem test_sendBasic_frame :
    got (exec (.sendBasic 3 abc) linked) (fun t => t.env.log == [.txWrite abcFrame]) = true ∧
      got (exec (.sendBasic 0 []) { linked with txSeq := 15 })
        (fun t => t.env.log == [.txWrite [0x7E, 0x02, 0x0F, 0x11]]) = true := by decide

/-- V-ARQ-7, V-ARQ-8: the wrap of `tx_seq` and a short write. -/
theorem test_sendBasic_write :
    got (exec (.sendBasic 0 []) (State.at { linked with txSeq := 15, txfLen := 4, env := { tx := [.count 4] } }
        (.sendBasic 0 []) .frameWrite)) (fun t => t.rsp == {} && t.txSeq == 0 && t.ctr == { framesSent := 1 }) = true ∧
      got (exec (.sendBasic 3 abc) (State.at { linked with txfLen := 7, env := { tx := [.count 3] } }
        (.sendBasic 3 abc) .frameWrite)) (fun t => t.rsp == { status := .incomplete } && t.txSeq == 0 && t.ctr == {}) =
        true := by decide

/-- The state in which SEND_RELIABLE of `abc` waits for the last byte of a 5-byte response; `x` is what stands before. -/
def awaiting (tries : Nat) (x : List Byte) (last : Byte) : State :=
  State.hears (State.at { linked with
    txf := Memory.putAll [] 0 abcFrame, txfLen := 7, rxf := Memory.putAll [] 0 x, locMax := 257, locNeed := 3
    locCnt := 2, tries := tries } (.sendReliable 3 abc) .bodyRead) [last]

/-- P1, command 2, its last step; P5, the NAK: the same frame again. -/
theorem test_sendReliable_response :
    got (exec (.sendReliable 3 abc) (awaiting 1 [0x7E, 0x03, 0x00, 0x06] 0x09))
        (fun t => t.rsp == {} && t.rspPending && t.txSeq == 1 && t.ctr == { acksRcvd := 1 }) = true ∧
      got (exec (.sendReliable 3 abc) (awaiting 1 [0x7E, 0x03, 0x00, 0x15] 0x18))
        (fun t => t.txSeq == 0 && t.ctr == { naksRcvd := 1 } && t.tries == 2 && t.env.log == [.txWrite abcFrame]) =
        true := by decide

/-- R176: a positive response for another number does not match; P3: the third timeout ends in GIVE_UP. -/
theorem test_sendReliable_noMatch :
    got (exec (.sendReliable 3 abc) (awaiting 1 [0x7E, 0x03, 0x01, 0x06] 0x0A))
        (fun t => t.txSeq == 0 && t.ctr == { acksRcvd := 1 } && t.env.log == [.txWrite abcFrame]) = true ∧
      got (exec (.sendReliable 3 abc) (State.at { linked with tries := 3, dl := 12, env := { now := 11, ticks := [1] } }
        (.sendReliable 3 abc) .huntNow))
        (fun t => t.rsp == { status := .giveUp } && t.ctr == { timeouts := 1 } && t.env.log == []) = true := by decide

/-! ## arq_fsm: receives -/

/-- The state in which receive command `i` waits for the last byte of `abcFrame` (or a corrupted one). -/
def receiving (i : Instr) (rxLast : SeqNum) : State :=
  State.at { linked with
    rxf := Memory.putAll [] 0 [0x7E, 0x05, 0x00, 0x01, 0x02, 0x03], locMax := 257, locNeed := 5, locCnt := 4
    tries := 1, rxLast := rxLast, expected := nextSeq rxLast } i .bodyRead

/-- R177: the payload cut to the capacity; a corrupted frame is answered with the sentinel. -/
theorem test_recvBasic :
    got (exec (.recvBasic 2) (State.hears (receiving (.recvBasic 2) 15) [0x0B]))
        (fun t => t.rsp == { n := 2, d := [0x01, 0x02] } && t.ctr == { goodRcvd := 1 } && t.rxLast == 15) = true ∧
      got (exec (.recvBasic 255) (State.hears (receiving (.recvBasic 255) 15) [0x0C]))
        (fun t => t.rsp == { n := 2, d := [0xBA, 0xD0] } && t.ctr == { badRcvd := 1 } && t.env.log == []) = true := by
  decide

/-- P2: the expected frame is offered an ACK, the duplicate and the corrupted frame (P4) a NAK that echoes its number. -/
theorem test_recvReliable_answers :
    got (exec (.recvReliable 255) (State.hears (receiving (.recvReliable 255) 15) [0x0B]))
        (fun t => t.env.log == [.txWrite [0x7E, 0x03, 0x00, 0x06, 0x09]] && t.rxLast == 15 &&
          t.ctr == { goodRcvd := 1 }) = true ∧
      got (exec (.recvReliable 255) (State.hears (receiving (.recvReliable 255) 0) [0x0B]))
        (fun t => t.env.log == [.txWrite [0x7E, 0x03, 0x00, 0x15, 0x18]] && t.ctr == { goodRcvd := 1 }) = true ∧
      got (exec (.recvReliable 255) (State.hears (receiving (.recvReliable 255) 15) [0x0C]))
        (fun t => t.env.log == [.txWrite [0x7E, 0x03, 0x00, 0x15, 0x18]] && t.ctr == { badRcvd := 1 }) = true := by
  decide

/-- P2: a complete ACK delivers; V-ARQ-28: a short one does not. -/
theorem test_recvReliable_accepts :
    got (exec (.recvReliable 255) (State.at { linked with env := { tx := [.count 5] } } (.recvReliable 255)
        (.acceptWrite 0x00 abc)))
        (fun t => t.rsp == { n := 3, d := abc } && t.rxLast == 0 && t.ctr == { acksSent := 1 }) = true ∧
      got (exec (.recvReliable 255) (State.at { linked with env := { tx := [.count 2] } } (.recvReliable 255)
        (.acceptWrite 0x00 abc)))
        (fun t => t.rsp == { status := .incomplete } && t.rxLast == 15 && t.ctr == {}) = true := by decide

/-! ## Stops -/

/-- R94: another command has no move while one runs; R86: a transport that counts past the length has none. -/
theorem test_stuck :
    stuck (exec .isElapsed (State.at fresh (.connect 0) .xOpen)) .portBusy = true ∧
      stuck (exec (.sendBasic 0 []) (State.at { linked with txfLen := 4, env := { tx := [.count 5] } }
        (.sendBasic 0 []) .frameWrite)) (.transportOvercount 5 4) = true := by decide

set_option maxRecDepth 8192 in
/-- V-ERR-2, V-ERR-3, V-ERR-4: which cause is answered first. -/
theorem test_precedence :
    got (step (State.asked fresh { op := 0xFF, n := 400 })) (fun t => t.rsp == { status := .illegalOpcode }) = true ∧
      got (exec (.sendReliable 300 []) fresh) (fun t => t.rsp == { status := .badOperand }) = true ∧
      got (exec (.sendReliable 254 (List.replicate 254 0)) fresh) (fun t => t.rsp == { status := .notConnected }) = true ∧
      got (exec (.sendBasic 254 (List.replicate 254 0)) linked) (fun t => t.rsp == { status := .payloadTooLarge }) =
        true := by decide

/-! ## Witnesses: what the hypotheses of the statements ask for exists

Each theorem names its statement and gives states and operands that meet the hypotheses of one clause, at the boundary
values of their ranges. -/

/-- The answer of a run of a whole command. -/
def ended (r : Option State) (f : State → Bool) : Bool := r.any f

theorem ended_some {r : Option State} {f : State → Bool} (h : ended r f = true) : ∃ u, r = some u ∧ f u = true := by
  cases r with
  | none => cases h
  | some u => exact ⟨u, rfl, h⟩

/-- A data operand of `k` zeros fits the length `k`. -/
theorem dataWf_zeros {n : Len} {k : Nat} (h : n.toNat = k) : dataWf n (List.replicate k 0) = true := by
  simp [dataWf, h]

/-! ### Encoding -/

theorem witness_decodeInvertsEncode :
    (Instr.csCompute 0xFF 0xFF 257 (List.replicate 257 0)).wf = true ∧ (Instr.csVerify 0 []).wf = true ∧
      (Instr.decode 511 abc 511).wf = true := ⟨dataWf_zeros rfl, rfl, rfl⟩

theorem witness_decodedCommandsKeepTheirFields :
    decodeCommand { op := 0x04, a := 0x09, n := 2, c := 1, t := 7, d := abc } = .ok (.decode 2 [0x01, 0x02] 1) := by rfl

/-- Opcodes 0x00, 0x10 and 0xFF with a record waiting. -/
theorem witness_unassigned :
    let s := State.asked fresh { op := 0x00 }
    (s.ustate = .idle ∧ s.rspPending = false ∧ s.env.rst.head? ≠ some true ∧ s.env.cmds = [{ op := 0x00 }]) ∧
      (0x00#8).toNat = 0x00 ∧ 0x10 ≤ (0x10#8).toNat ∧ 0x10 ≤ (0xFF#8).toNat := by decide

/-- Records that differ only in what their command ignores: every other field, `b[7:1]`, and `d` beyond `n`. -/
theorem witness_ignoredFields :
    sameOperands { op := 0x0E, a := 1, b := 0x01 } { op := 0x0E, a := 1, b := 0xFF, n := 5, c := 2, t := 3 } ∧
      sameOperands { op := 0x02, n := 1, d := [0x7E] } { op := 0x02, a := 4, n := 1, d := [0x7E, 0x00] } ∧
      sameOperands { op := 0x0F } { op := 0x0F, a := 1, b := 1, n := 1, c := 1, t := 1, d := [0x01] } := by
  simp [sameOperands]

/-- The opcodes 0x01 and 0x0F, with as many data bytes as `n` says. -/
theorem witness_assigned :
    (1 ≤ (0x01#8).toNat ∧ (0x01#8).toNat ≤ 0x0F ∧ (3#9).toNat ≤ abc.length) ∧
      1 ≤ (0x0F#8).toNat ∧ (0x0F#8).toNat ≤ 0x0F ∧ (0#9).toNat ≤ ([] : List Byte).length := by decide

/-! ### The step and the ports -/

theorem witness_stepRunsTheDecodedCommand :
    let s := State.asked fresh { op := 0x07 }
    s.env.rst.head? ≠ some true ∧ s.ustate = .idle ∧ s.rspPending = false ∧ s.env.cmds = [{ op := 0x07 }] ∧
      decodeCommand { op := 0x07 } = .ok .isElapsed := ⟨by decide, rfl, rfl, rfl, rfl⟩

theorem witness_stepRunsTheDecodedCommand_busy :
    let s := State.at { fresh with env := { rst := [false] } } .isElapsed .elapsedNow
    s.env.rst.head? ≠ some true ∧ s.ustate = .busy .isElapsed .elapsedNow := by decide

theorem witness_theHostsTurn :
    (fresh.ustate = .idle ∧ fresh.env.rst.head? ≠ some true ∧ fresh.rspPending = false ∧ fresh.env.cmds = []) ∧
      ({ fresh with rspPending := true } : State).rspPending = true := by decide

theorem witness_oneCommandAtATime :
    let s := State.at fresh (.connect 1) .connectNow
    s.ustate = .busy (.connect 1) .connectNow ∧ Instr.connect 2 ≠ .connect 1 ∧ ∃ t, exec (.connect 1) s = .next t :=
  ⟨rfl, by decide, _, rfl⟩

/-- A step that answers, from IDLE and from BUSY, and one that issues. -/
theorem witness_everyStepRespondsOrIssuesOneRequest :
    (∃ t, exec .getOptBlock fresh = .next t ∧ (t.ustate == .idle) = true) ∧
      (∃ t, exec (.connect 1) (State.at fresh (.connect 1) .connectNow) = .next t ∧ (t.ustate == .idle) = true) ∧
      ∃ t, exec .isElapsed fresh = .next t ∧ (t.ustate == .busy .isElapsed .elapsedNow) = true :=
  ⟨got_next (by decide), ⟨_, rfl, rfl⟩, got_next (by decide)⟩

/-! ### Reset -/

/-- Reset asserted while a command runs, and in another state with the same environment. -/
theorem witness_reset :
    let s := State.at { linked with txSeq := 9, env := { rst := [true] } } (.connect 1) .connectNow
    let s' := { fresh with env := s.env }
    s.env.rst = true :: [] ∧ s'.cfg = s.cfg ∧ s'.env = s.env ∧ s' ≠ s := ⟨rfl, rfl, rfl, by decide⟩

theorem witness_stateAfterReset : 256 < BufName.txf.size ∧ 256 < BufName.rxf.size ∧ 4 < BufName.akf.size := by decide

/-! ### Invariants -/

theorem fresh_regsOk : fresh.RegsOk := by constructor <;> decide

theorem linked_regsOk : linked.RegsOk := by constructor <;> decide

/-- A safe state in session, idle. -/
theorem linked_inv : linked.Inv := ⟨linked_regsOk, trivial⟩

/-- RECV_RELIABLE at its first wait. -/
def firstWait : State :=
  State.at { linked with
    locMax := 257, dl := 5, tries := 1, expected := 0, env := { rx := [.byte 0x7E], ticks := [1] } }
    (.recvReliable 255) .huntRead

theorem firstWait_inv : firstWait.Inv :=
  ⟨by constructor <;> decide, rfl, rfl, rfl, fun _ => rfl, fun _ => by decide, rfl, by decide,
    fun _ _ h => by cases h⟩

theorem witness_stepKeepsTheInvariant :
    firstWait.Inv ∧ ∃ t, step firstWait = .next t ∧ (t.ustate == .busy (.recvReliable 255) .sizeRead) = true :=
  ⟨firstWait_inv, got_next (by decide)⟩

theorem witness_safeStatesNeverStick : fresh.Inv ∧ linked.Inv ∧ firstWait.Inv :=
  ⟨⟨fresh_regsOk, trivial⟩, linked_inv, firstWait_inv⟩

/-- CONNECT about to complete, at a time of its own. -/
def opening : State := State.at { fresh with env := { now := 3, ticks := [2] } } (.connect 1) .connectNow

theorem witness_configurationStaysAndTimeAdvances :
    ∃ t, step opening = .next t ∧ (t.env.now == 5 && t.phase == .connected) = true := got_next (by decide)

/-- The phase changes at reset, with CONNECT and with DISCONNECT. -/
theorem witness_phaseChanges :
    (∃ t, step { linked with env := { rst := [true] } } = .next t ∧ (t.phase != Phase.connected) = true) ∧
      (∃ t, step opening = .next t ∧ (t.phase != opening.phase) = true) ∧
      ∃ t, step (State.at { linked with env := { ticks := [1] } } .disconnect (.disconnectNow .ok)) = .next t ∧
        (t.phase != Phase.connected) = true :=
  ⟨got_next (by decide), got_next (by decide), got_next (by decide)⟩

/-- SEND_BASIC of nothing, its frame offered, with `tx_seq` at its top. -/
def sending : State :=
  State.at { linked with txSeq := 15, txfLen := 4, env := { tx := [.count 4] } } (.sendBasic 0 []) .frameWrite

/-- `tx_seq` changes at reset, with the open of CONNECT and with an OK send. -/
theorem witness_txSeqChanges :
    (∃ t, step { linked with txSeq := 3, env := { rst := [true] } } = .next t ∧ (t.txSeq != 3) = true) ∧
      (∃ t, step (State.at { fresh with txSeq := 3, env := { ctrl := [.ok] } } (.connect 1) .xOpen) = .next t ∧
        (t.txSeq != 3) = true) ∧
      ∃ t, step sending = .next t ∧ (t.txSeq != sending.txSeq) = true :=
  ⟨got_next (by decide), got_next (by decide), got_next (by decide)⟩

/-- Both sends end with OK. -/
theorem witness_okSends :
    (∃ t, exec (.sendBasic 0 []) sending = .next t ∧ (t.ustate == .idle && t.rsp.status == .ok) = true) ∧
      ∃ t, exec (.sendReliable 3 abc) (awaiting 3 [0x7E, 0x03, 0x00, 0x06] 0x09) = .next t ∧
        (t.ustate == .idle && t.rsp.status == .ok) = true :=
  ⟨got_next (by decide), got_next (by decide)⟩

/-- RECV_RELIABLE with the ACK of the frame it accepts offered. -/
def accepting : State :=
  State.at { linked with tries := 1, expected := 0, env := { tx := [.count 5] } } (.recvReliable 255)
    (.acceptWrite 0x00 abc)

theorem accepting_inv : accepting.Inv :=
  ⟨by constructor <;> decide, rfl, rfl, rfl, fun _ => rfl, fun _ => by decide, trivial, by decide, by
    rintro seq p ⟨⟩; decide⟩

theorem idle_inv {s : State} (h : s.RegsOk) (hu : s.ustate = .idle) : s.Inv := ⟨h, by simp [State.controlOk, hu]⟩

/-- CONNECT waiting on its open, in a safe state. -/
theorem witness_connect_inv :
    (State.at { fresh with rxLast := 3, env := { ctrl := [.ok] } } (.connect 1) .xOpen).Inv :=
  ⟨by constructor <;> decide, rfl, rfl, rfl, (fun h => by cases h), (fun h => by cases h), trivial, rfl,
    fun h => by cases h⟩

/-- `rx_last` changes at reset, with the open of CONNECT and with an accepted frame, from safe states. -/
theorem witness_rxLastChanges :
    (({ linked with rxLast := 3, env := { rst := [true] } } : State).Inv ∧
      ∃ t, step { linked with rxLast := 3, env := { rst := [true] } } = .next t ∧ (t.rxLast != 3) = true) ∧
      (∃ t, step (State.at { fresh with rxLast := 3, env := { ctrl := [.ok] } } (.connect 1) .xOpen) = .next t ∧
        (t.rxLast != 3) = true) ∧
      accepting.Inv ∧ ∃ t, step accepting = .next t ∧ (t.rxLast != accepting.rxLast) = true :=
  ⟨⟨idle_inv (by constructor <;> decide) rfl, got_next (by decide)⟩, got_next (by decide), accepting_inv,
    got_next (by decide)⟩

/-- A counter changes at reset, with the open of CONNECT, and by one, its wrap among them. -/
theorem witness_countersChange :
    (∃ t, step { linked with ctr := { timeouts := 7 }, env := { rst := [true] } } = .next t ∧
        (t.ctr.get .timeouts != 7) = true) ∧
      (∃ t, step (State.at { fresh with ctr := { timeouts := 7 }, env := { ctrl := [.ok] } } (.connect 1) .xOpen) =
        .next t ∧ (t.ctr.get .timeouts != 7) = true) ∧
      ∃ t, step { sending with ctr := { framesSent := 0xFFFFFFFF } } = .next t ∧
        (t.ctr.get .framesSent == 0) = true :=
  ⟨got_next (by decide), got_next (by decide), got_next (by decide)⟩

/-- A writer of each register: the deadline, the buffers and their lengths, the accumulator, the working registers of
the locate procedure, the attempt counter, the expected number, the start time and the counters. -/
theorem witness_registersAreWritten :
    (∃ t, exec (.setDeadline 5) (State.at { fresh with env := { ticks := [1] } } (.setDeadline 5) .deadlineNow) =
        .next t ∧ (t.dl != 0) = true) ∧
      (∃ t, exec (.encode 0 0 []) fresh = .next t ∧ (t.txf != [] && t.txfLen != 0 && t.csAcc != 0) = true) ∧
      (∃ t, exec (.csVerify 4 [0x7E, 0x02, 0x00, 0x02]) fresh = .next t ∧ (t.rxf != [] && t.rxfLen != 0) = true) ∧
      (∃ t, exec (.sendAck 0 .pos) linked = .next t ∧ (t.akf != []) = true) ∧
      (∃ t, exec (.locate 9 5) (State.at { linked with env := { ticks := [1] } } (.locate 9 5) .locateNow) = .next t ∧
        (t.locMax != 0 && t.dl != 0) = true) ∧
      (∃ t, exec (.locate 9 5) (State.hears (State.at { linked with locMax := 9 } (.locate 9 5) .sizeRead) [0x02]) =
        .next t ∧ (t.locNeed != 0) = true) ∧
      (∃ t, exec (.recvReliable 1) { linked with rxLast := 4 } = .next t ∧ (t.tries != 0 && t.expected != 0) = true) ∧
      (∃ t, exec (.connect 1) opening = .next t ∧ (t.connStart != 0) = true) ∧
      ∃ t, exec (.sendBasic 0 []) sending = .next t ∧ (t.ctr != {}) = true :=
  ⟨got_next (by decide), got_next (by decide), got_next (by decide), got_next (by decide), got_next (by decide),
    got_next (by decide), got_next (by decide), got_next (by decide), got_next (by decide)⟩

/-- Steps of a command that accept it in IDLE, and that wait at a read, at a reading of the time, at a write (each kind)
and at an open and a close. -/
theorem witness_onlyReadsConsumeTheStream :
    (∃ t, exec .isElapsed fresh = .next t ∧ (fresh.waitsFor readsTime == false) = true) ∧
      (∃ t, exec (.recvReliable 255) firstWait = .next t ∧ firstWait.waitsFor readsStream = true) ∧
      (∃ t, exec (.connect 1) opening = .next t ∧ opening.waitsFor readsTime = true) ∧
      (∃ t, exec (.sendBasic 0 []) sending = .next t ∧ sending.waitsFor writesFrame = true) ∧
      (∃ t, exec (.recvReliable 255) accepting = .next t ∧ accepting.waitsFor writesFrame = true) ∧
      (∃ t, exec (.connect 1) (State.at { fresh with env := { ctrl := [.ok] } } (.connect 1) .xOpen) = .next t ∧
        (t.env.ctrl == []) = true) ∧
      (∃ t, exec .disconnect (State.at { linked with env := { ctrl := [.ok] } } .disconnect .xClose) = .next t ∧
        (t.env.ctrl == []) = true) := by
  refine ⟨⟨_, rfl, by decide⟩, ?_, ?_, ?_, ?_, got_next (by decide), got_next (by decide)⟩
  · exact (got_next (f := fun _ => true) (by decide)).imp fun _ h => ⟨h.1, by decide⟩
  · exact (got_next (f := fun _ => true) (by decide)).imp fun _ h => ⟨h.1, by decide⟩
  · exact (got_next (f := fun _ => true) (by decide)).imp fun _ h => ⟨h.1, by decide⟩
  · exact (got_next (f := fun _ => true) (by decide)).imp fun _ h => ⟨h.1, by decide⟩

/-- A step of the machine with reset not asserted, and one with it asserted in the middle of a wait. -/
theorem witness_onlyReadsConsumeTheStream_step :
    (firstWait.env.rst.head? ≠ some true ∧ ∃ t, step firstWait = .next t ∧ (t.env.rx == []) = true) ∧
      ({ firstWait with env := { firstWait.env with rst := [true] } } : State).env.rst.head? = some true ∧
      ∃ t, step { firstWait with env := { firstWait.env with rst := [true] } } = .next t ∧
        (t.env.rx == [.byte 0x7E] && t.env.ticks == [1]) = true :=
  ⟨⟨by decide, got_next (by decide)⟩, by decide, got_next (by decide)⟩

/-- States in which the step reads no time: idle, and at a read. -/
theorem witness_timeIsReadOnlyByNow :
    (∀ k, fresh.ustate = .busy .isElapsed k → readsTime k = false) ∧
      ∀ k, firstWait.ustate = .busy (.recvReliable 255) k → readsTime k = false :=
  ⟨fun _ h => (by cases h), fun _ h => (by cases h; rfl)⟩

/-! ### Checks before execution -/

set_option maxRecDepth 8192 in
/-- Every cause of the list, and a command that none keeps from execution. -/
theorem witness_checksAreMadeInOrder :
    fresh.ustate = .idle ∧ linked.ustate = .idle ∧
      ((Instr.sendReliable 300 []).wf = true ∧ firstCause (.sendReliable 300 []) fresh = some .badOperand) ∧
      firstCause (.recvBasic 1) fresh = some .notConnected ∧ firstCause (.connect 1) linked = some .alreadyConnected ∧
      ((Instr.encode 0 254 (List.replicate 254 0)).wf = true ∧
        firstCause (.encode 0 254 (List.replicate 254 0)) fresh = some .payloadTooLarge) ∧
      (Instr.decode 3 abc 0).wf = true ∧ firstCause (.decode 3 abc 0) fresh = some .frameLength ∧
      firstCause (.sendReliable 3 abc) linked = none ∧ firstCause .getOptBlock fresh = none := by decide

theorem witness_unitCommandsIgnoreTheSession :
    unitCommand (.csCompute 0 0 0 []) = true ∧ unitCommand (.csVerify 0 []) = true ∧
      unitCommand (.encode 0 0 []) = true ∧ unitCommand (.decode 0 [] 0) = true ∧ unitCommand (.setDeadline 0) = true ∧
      unitCommand .isElapsed = true ∧ unitCommand .getOptBlock = true := by decide

/-! ### checksum_unit -/

theorem witness_checksumIsTheExactSum : abc.Perm [0x03, 0x02, 0x01] := by decide

/-- A frame below 4 bytes, one of 4, and one of 7 in `rxf`. -/
theorem witness_verifyIsTheChecksumTest :
    (State.holding fresh [0x7E, 0x01, 0x00]).rxf.holds 0 [0x7E, 0x01, 0x00] = true ∧
      (State.holding fresh [0x7E, 0x02, 0x00, 0x02]).rxf.holds 0 [0x7E, 0x02, 0x00, 0x02] = true ∧
      (State.holding fresh abcFrame).rxf.holds 0 abcFrame = true ∧ abcFrame.length ≤ 257 := by decide

/-- The longest frame, the first and the last bit. -/
theorem witness_checksumArithmeticLaws : (List.replicate 257 (0xFF : Byte)).length ≤ 257 ∧ 0 < 8 ∧ 7 < 8 :=
  ⟨List.length_replicate.le, by decide, by decide⟩

/-- An idle state, and operands at 0, at 257 and above. -/
theorem witness_dataOperands :
    fresh.ustate = .idle ∧ (dataWf 0 [] = true ∧ (0#9).toNat ≤ 257) ∧
      (dataWf 257 (List.replicate 257 0) = true ∧ (257#9).toNat ≤ 257) ∧ dataWf 258 [] = true ∧ 257 < (258#9).toNat :=
  ⟨rfl, by decide, ⟨dataWf_zeros rfl, by decide⟩, by decide, by decide⟩

theorem witness_encodedFramesVerifyGood :
    fresh.ustate = .idle ∧ ((0#9).toNat = ([] : List Byte).length ∧ (253#9).toNat = (List.replicate 253 (0 : Byte)).length ∧
      (List.replicate 253 (0 : Byte)).length ≤ 253) :=
  ⟨rfl, rfl, List.length_replicate.symm, List.length_replicate.le⟩

/-! ### frame_codec -/

/-- 253, 254, 257 and 258 bytes. -/
theorem witness_encodeAnswersTheFrame :
    fresh.ustate = .idle ∧ (dataWf 253 (List.replicate 253 0) = true ∧ (253#9).toNat ≤ 253) ∧
      (dataWf 254 (List.replicate 254 0) = true ∧ 253 < (254#9).toNat) ∧
      (dataWf 257 (List.replicate 257 0) = true ∧ (257#9).toNat ≤ 257) ∧ dataWf 258 [] = true ∧ 257 < (258#9).toNat :=
  ⟨rfl, ⟨dataWf_zeros rfl, by decide⟩, ⟨dataWf_zeros rfl, by decide⟩, ⟨dataWf_zeros rfl, by decide⟩, by decide,
    by decide⟩

/-- 3, 4, 257 and 258 bytes. -/
theorem witness_decodeAnswersSeqAndPayload :
    fresh.ustate = .idle ∧ (dataWf 3 abc = true ∧ (3#9).toNat < 4) ∧
      (dataWf 4 [0x7E, 0x02, 0x00, 0x02] = true ∧ 4 ≤ (4#9).toNat) ∧
      (dataWf 257 (List.replicate 257 0) = true ∧ (257#9).toNat ≤ 257) ∧ dataWf 258 [] = true ∧ 257 < (258#9).toNat :=
  ⟨rfl, ⟨rfl, by decide⟩, ⟨rfl, by decide⟩, ⟨dataWf_zeros rfl, by decide⟩, by decide, by decide⟩

theorem witness_decodeOfEncodeGivesThePayload :
    fresh.ustate = .idle ∧ (3#9).toNat = abc.length ∧ abc.length ≤ 253 := by decide

theorem witness_locateSetsItsDeadline :
    (fresh.ustate = .idle ∧ fresh.phase = .disconnected) ∧ (linked.ustate = .idle ∧ linked.phase = .connected) ∧
      (State.at linked (.locate 9 0) .locateNow).ustate = .busy (.locate 9 0) .locateNow := by decide

/-- `s` with command `i` inside the locate procedure: after the size byte 3, with 2 body bytes. -/
def locating (i : Instr) (k : Point) : State :=
  State.at { linked with
    rxf := Memory.putAll [] 0 [0x7E, 0x03, 0x00, 0x06], locMax := 257, locNeed := 3, locCnt := 2, dl := 5, tries := 1
    env := { now := 4, ticks := [1] } } i k

/-- No byte, at each read. -/
theorem witness_locate_empty :
    let s := { locating (.locate 257 5) .huntRead with env := { rx := [.empty] } }
    usesLocate (.locate 257 5) = true ∧ s.ustate = .busy (.locate 257 5) .huntRead ∧
      s.env.rxRead = (.empty, { s.env with rx := [] }) := ⟨rfl, rfl, rfl⟩

/-- HUNT with another byte and with the marker; SIZE with 1 and with the largest size that fits; BODY before its last
byte. -/
theorem witness_locate_byte :
    let s := { locating (.recvBasic 9) .huntRead with locCnt := 1, env := { rx := [.byte 0x7E] } }
    usesLocate (.recvBasic 9) = true ∧ s.env.rxRead = (.byte 0x7E, { s.env with rx := [] }) ∧
      (0x7F#8 ≠ s.cfg.marker ∧ 0x7E#8 = s.cfg.marker) ∧ (0 < (0x01#8).toNat ∧ 2 + (0xFF#8).toNat ≤ s.locMax.toNat) ∧
      s.locCnt.toNat + 1 < s.locNeed.toNat := ⟨rfl, rfl, by decide, by decide, by decide⟩

/-- A deadline test just before the deadline. -/
theorem witness_locate_beforeDeadline :
    let s := { locating (.sendReliable 3 abc) .bodyNow with dl := 6 }
    usesLocate (.sendReliable 3 abc) = true ∧ s.env.readNow.1 < s.dl ∧ s.locCnt.toNat < s.locNeed.toNat := by decide

/-- The last body byte completes a frame, a size byte of 0 completes one of 2 bytes. -/
theorem witness_completes :
    (State.hears (locating (.locate 257 5) .bodyRead) [0x09]).completes .bodyRead [0x7E, 0x03, 0x00, 0x06, 0x09]
        { now := 4, ticks := [1] } ∧
      (State.hears (locating (.locate 257 5) .sizeRead) [0x00]).completes .sizeRead [0x7E, 0x00]
        { now := 4, ticks := [1] } :=
  ⟨⟨[0x7E, 0x03, 0x00, 0x06], 0x09, rfl, rfl, by decide, .inl ⟨rfl, by decide, by decide⟩⟩,
    ⟨[0x7E], 0x00, rfl, rfl, by decide, .inr ⟨rfl, rfl, rfl, by decide⟩⟩⟩

/-- A deadline test at the deadline, and a size byte that does not fit by one, find none. -/
theorem witness_findsNone :
    (locating (.locate 257 5) .huntNow).findsNone .huntNow { locating (.locate 257 5) .huntNow with
        env := { now := 5 } } ∧
      (State.hears { locating (.locate 8 5) .sizeRead with locMax := 8 } [0x07]).findsNone .sizeRead
        { locating (.locate 8 5) .sizeRead with
          locMax := 8, locNeed := 0x07, rxf := Memory.putAll [] 0 [0x7E, 0x07, 0x00, 0x06] } :=
  ⟨.inl ⟨.inl rfl, by decide, by rfl⟩, .inr ⟨rfl, 0x07, _, rfl, by decide, by rfl⟩⟩

theorem witness_locateAnswers :
    (State.hears (locating (.locate 257 5) .bodyRead) [0x09]).ustate = .busy (.locate 257 5) .bodyRead ∧
      readsStream .bodyRead = true ∧ ({ rx := [.err 5] } : Env).rxRead = (.err 5, {}) := ⟨rfl, rfl, rfl⟩

/-- A LOCATE that has all but its last byte, in a safe state. -/
theorem locating_inv : (State.hears (locating (.locate 257 5) .bodyRead) [0x09]).Inv := by
  refine ⟨by constructor <;> decide, rfl, rfl, rfl, fun _ => rfl, (fun h => by cases h),
    ⟨rfl, by decide, by decide, ?_, by decide, by decide⟩, trivial⟩
  intro j h2 h4
  have : j = 2 ∨ j = 3 := by
    have : (State.hears (locating (.locate 257 5) .bodyRead) [0x09]).locCnt.toNat = 2 := by decide
    omega
  rcases this with rfl | rfl
  · exact ⟨0x00, by decide⟩
  · exact ⟨0x06, by decide⟩

theorem witness_locatedFramesAreDelimited :
    (State.hears (locating (.locate 257 5) .bodyRead) [0x09]).Inv ∧
      ∃ t, exec (.locate 257 5) (State.hears (locating (.locate 257 5) .bodyRead) [0x09]) = .next t ∧
        (t.ustate == .idle && t.rsp.status == .ok) = true := ⟨locating_inv, got_next (by decide)⟩

/-- TIMEOUT from each deadline test, and from an oversize size byte. -/
theorem witness_timeouts :
    (∃ t, exec (.locate 257 5) (locating (.locate 257 5) .huntNow) = .next t ∧
        (t.ustate == .idle && t.rsp.status == .timeout) = true) ∧
      (∃ t, exec (.locate 257 5) (locating (.locate 257 5) .bodyNow) = .next t ∧
        (t.ustate == .idle && t.rsp.status == .timeout) = true) ∧
      ∃ t, exec (.locate 8 5) (State.hears { locating (.locate 8 5) .sizeRead with locMax := 8 } [0x07]) = .next t ∧
        (t.ustate == .idle && t.rsp.status == .timeout) = true :=
  ⟨got_next (by decide), got_next (by decide), got_next (by decide)⟩

/-- A step at a read that stores a byte nothing had written. -/
theorem witness_locateWritesOneByteOfRxf :
    ∃ t, exec (.recvReliable 255) firstWait = .next t ∧
      (t.rxf.get? (locateOffset .huntRead firstWait) == some 0x7E &&
        firstWait.rxf.get? (locateOffset .huntRead firstWait) != some 0x7E) = true := got_next (by decide)

/-- A stream with junk before the frame, and just enough time left at the test after it. -/
theorem witness_locateFindsTheFirstFrame :
    let s := { State.hears linked [0x00, 0x7E, 0x02, 0x00, 0x02] with
      env := { rx := [.byte 0x00, .byte 0x7E, .byte 0x02, .byte 0x00, .byte 0x02], ticks := [0, 4] } }
    s.ustate = .idle ∧ s.phase = .connected ∧ s.cfg.marker ∉ [(0x00 : Byte)] ∧
      ([0x00, 0x02] : List Byte).length = (0x02#8).toNat ∧ 2 + (0x02#8).toNat ≤ (4#9).toNat ∧ s.env.ticks = 0 :: [4] ∧
      ([4] : List Time).length = ([0x00] : List Byte).length ∧ ([4] : List Time).sum < 5 ∧
      s.env.rx = (([0x00] : List Byte) ++ s.cfg.marker :: 0x02 :: [0x00, 0x02]).map RxAnswer.byte ++ [] := by
  refine ⟨rfl, rfl, by decide, rfl, by decide, rfl, rfl, by decide, rfl⟩

/-- A stream that starts with the frame, the smallest one, with no time to wait and no test made. -/
theorem witness_locateFindsTheFirstFrame_noJunk :
    let s := { linked with env := { rx := [.byte 0x7E, .byte 0x00], ticks := [0] } }
    s.ustate = .idle ∧ s.phase = .connected ∧ s.cfg.marker ∉ ([] : List Byte) ∧
      ([] : List Byte).length = (0x00#8).toNat ∧ 2 + (0x00#8).toNat ≤ (2#9).toNat ∧ s.env.ticks = 0 :: [] ∧
      ([] : List Time).length = ([] : List Byte).length ∧ (([] : List Time) = [] ∨ ([] : List Time).sum < 0) ∧
      s.env.rx = (([] : List Byte) ++ s.cfg.marker :: 0x00 :: []).map RxAnswer.byte ++ [] := by
  refine ⟨rfl, rfl, by decide, rfl, by decide, rfl, rfl, .inl rfl, rfl⟩

/-! ### timer_comparator and the session -/

theorem witness_timer :
    (State.at fresh (.setDeadline 5) .deadlineNow).ustate = .busy (.setDeadline 5) .deadlineNow ∧
      (State.at fresh (.setDeadline 0) .deadlineNow).ustate = .busy (.setDeadline 0) .deadlineNow ∧
      (State.at fresh (.locate 9 0) .locateNow).ustate = .busy (.locate 9 0) .locateNow ∧
      (State.at fresh (.sendReliable 3 abc) .locateNow).ustate = .busy (.sendReliable 3 abc) .locateNow ∧
      (State.at fresh (.recvBasic 9) .locateNow).ustate = .busy (.recvBasic 9) .locateNow ∧
      (State.at fresh (.recvReliable 9) .locateNow).ustate = .busy (.recvReliable 9) .locateNow ∧
      (State.at fresh .isElapsed .elapsedNow).ustate = .busy .isElapsed .elapsedNow ∧ fresh.dl = 0 ∧
      fresh.dl ≤ fresh.env.now := by decide

theorem witness_connectStartsASession :
    (linked.ustate = .idle ∧ linked.phase = .connected) ∧ (fresh.ustate = .idle ∧ fresh.phase = .disconnected) ∧
      (({ ctrl := [.err 1] } : Env).ctrlAnswer = (.err 1, {}) ∧ ({ ctrl := [.ok] } : Env).ctrlAnswer = (.ok, {})) ∧
      (State.at fresh (.connect 1) .xOpen).ustate = .busy (.connect 1) .xOpen ∧
      opening.ustate = .busy (.connect 1) .connectNow := ⟨⟨rfl, rfl⟩, ⟨rfl, rfl⟩, ⟨rfl, rfl⟩, rfl, rfl⟩

theorem witness_disconnectReports :
    (State.at linked .disconnect .xClose).ustate = .busy .disconnect .xClose ∧
      (State.at linked .disconnect (.disconnectNow (.err 7))).ustate = .busy .disconnect (.disconnectNow (.err 7)) ∧
      ({ ctrl := [.err 7] } : Env).ctrlAnswer = (.err 7, {}) := ⟨rfl, rfl, rfl⟩

/-! ### Sends -/

/-- The answers to a write of 5 bytes: all, one fewer, none, a failure. -/
theorem witness_writes :
    ({ tx := [.count 5] } : Env).txWrite 5 = .ok (.count 5, {}) ∧ ({ tx := [.count 4] } : Env).txWrite 5 = .ok (.count 4, {}) ∧
      ({ tx := [.count 0] } : Env).txWrite 5 = .ok (.count 0, {}) ∧ ({ tx := [.err 2] } : Env).txWrite 5 = .ok (.err 2, {}) ∧
      (State.at linked (.sendAck 0 .pos) .ackWrite).ustate = .busy (.sendAck 0 .pos) .ackWrite :=
  ⟨rfl, rfl, rfl, rfl, rfl⟩

set_option maxRecDepth 8192 in
/-- Sends at MAX_BLOCK and one above, in session and not. -/
theorem witness_sends :
    (dataWf 253 (List.replicate 253 0) = true ∧ (253#9).toNat ≤ linked.cfg.maxBlock) ∧
      (dataWf 254 (List.replicate 254 0) = true ∧
        firstCause (.sendBasic 254 (List.replicate 254 0)) linked = some .payloadTooLarge) ∧
      (dataWf 0 [] = true ∧ firstCause (.sendBasic 0 []) fresh = some .notConnected) ∧
      sending.ustate = .busy (.sendBasic 0 []) .frameWrite ∧
      sending.env.txWrite sending.txfLen.toNat = .ok (.count sending.txfLen.toNat, {}) := by
  refine ⟨by decide, by decide, by decide, rfl, rfl⟩

theorem witness_sendReliableTransmits :
    (State.at { linked with txfLen := 7, env := { tx := [.count 7] } } (.sendReliable 3 abc) .frameWrite).ustate =
        .busy (.sendReliable 3 abc) .frameWrite ∧
      ({ tx := [.count 7] } : Env).txWrite 7 = .ok (.count 7, {}) ∧
      (State.at linked (.sendReliable 3 abc) .locateNow).ustate = .busy (.sendReliable 3 abc) .locateNow :=
  ⟨rfl, rfl, rfl⟩

/-- A positive acknowledgement of the number sent. -/
theorem witness_sendReliableAccepts :
    let s := awaiting 1 [0x7E, 0x03, 0x00, 0x06] 0x09
    let f : List Byte := [0x7E, 0x03, 0x00, 0x06, 0x09]
    s.ustate = .busy (.sendReliable 3 abc) .bodyRead ∧ s.completes .bodyRead f {} ∧ 4 ≤ f.length ∧
      byteSum ((f.drop 1).dropLast) % 250 = (f.getLastD 0).toNat ∧
      ((f.drop 3).dropLast).take 1 = [s.cfg.statusAck] ∧ f.getD 2 0 = s.txSeq.setWidth 8 :=
  ⟨rfl, ⟨[0x7E, 0x03, 0x00, 0x06], 0x09, rfl, rfl, by decide, .inl ⟨rfl, by decide, by decide⟩⟩, by decide, by decide,
    by decide, by decide⟩

/-- Safe states in which SEND_RELIABLE waits for the last byte of a response: at either end of its attempts, and with
another number or a negative status so far. -/
theorem awaiting_inv :
    (awaiting 1 [0x7E, 0x03, 0x00, 0x06] 0x0A).Inv ∧ (awaiting 3 [0x7E, 0x03, 0x00, 0x06] 0x0A).Inv ∧
      (awaiting 1 [0x7E, 0x03, 0x01, 0x06] 0x0A).Inv ∧ (awaiting 1 [0x7E, 0x03, 0x00, 0x15] 0x18).Inv := by
  refine ⟨?_, ?_, ?_, ?_⟩ <;>
  · refine ⟨by constructor <;> decide, rfl, rfl, rfl, fun _ => rfl, fun _ => by decide,
      ⟨rfl, by decide, by decide, ?_, by decide, by decide⟩, by decide, by decide, by decide, by decide⟩
    intro j h2 h4
    have : j = 2 ∨ j = 3 := by simp only [awaiting, State.at, State.hears] at h4; simp at h4; omega
    rcases this with rfl | rfl <;> exact ⟨_, rfl⟩

/-- The responses that are no match: bad, positive for another number, negative, with no payload, a data frame. -/
theorem witness_sendReliableRetries :
    let good := fun f : List Byte => 4 ≤ f.length ∧ byteSum ((f.drop 1).dropLast) % 250 = (f.getLastD 0).toNat
    ¬good [0x7E, 0x00] ∧ ¬good [0x7E, 0x03, 0x00, 0x06, 0x0A] ∧
      (good [0x7E, 0x03, 0x01, 0x06, 0x0A] ∧ (0x01#8) ≠ linked.txSeq.setWidth 8) ∧
      (good [0x7E, 0x03, 0x00, 0x15, 0x18] ∧ ([0x15] : List Byte) ≠ [tc.statusAck]) ∧
      (good [0x7E, 0x02, 0x00, 0x02] ∧ ([] : List Byte) ≠ [tc.statusAck]) ∧
      (awaiting 1 [] 0).tries < tc.maxTries ∧ tc.maxTries ≤ (awaiting 3 [] 0).tries := by decide

/-- Each of them completed from a safe state: a bad one, a positive one for another number, a negative one. -/
theorem witness_sendReliableRetries_frames :
    (awaiting 1 [0x7E, 0x03, 0x00, 0x06] 0x0A).completes .bodyRead [0x7E, 0x03, 0x00, 0x06, 0x0A] {} ∧
      (awaiting 1 [0x7E, 0x03, 0x01, 0x06] 0x0A).completes .bodyRead [0x7E, 0x03, 0x01, 0x06, 0x0A] {} ∧
      (awaiting 1 [0x7E, 0x03, 0x00, 0x15] 0x18).completes .bodyRead [0x7E, 0x03, 0x00, 0x15, 0x18] {} :=
  ⟨⟨[0x7E, 0x03, 0x00, 0x06], 0x0A, rfl, rfl, by decide, .inl ⟨rfl, by decide, by decide⟩⟩,
    ⟨[0x7E, 0x03, 0x01, 0x06], 0x0A, rfl, rfl, by decide, .inl ⟨rfl, by decide, by decide⟩⟩,
    ⟨[0x7E, 0x03, 0x00, 0x15], 0x18, rfl, rfl, by decide, .inl ⟨rfl, by decide, by decide⟩⟩⟩

/-- A wait that finds no frame, from a safe state. -/
theorem witness_sendReliableRetries_none :
    let s := State.at (awaiting 3 [0x7E, 0x03, 0x00, 0x06] 0x0A) (.sendReliable 3 abc) .huntNow
    s.Inv ∧ s.ustate = .busy (.sendReliable 3 abc) .huntNow ∧ s.findsNone .huntNow { s with env := s.env.readNow.2 } :=
  ⟨⟨by constructor <;> decide, rfl, rfl, rfl, fun _ => rfl, fun _ => by decide, rfl, by decide, by decide, by decide,
    by decide⟩, rfl, .inl ⟨.inl rfl, Nat.zero_le _, rfl⟩⟩

theorem witness_transportErrors :
    let s := { locating (.recvBasic 9) .huntRead with env := { rx := [.err 5] } }
    usesLocate (.recvBasic 9) = true ∧ s.ustate = .busy (.recvBasic 9) .huntRead ∧ readsStream .huntRead = true ∧
      s.env.rxRead = (.err 5, {}) := ⟨rfl, rfl, rfl, rfl⟩

/-- One attempt, with no time to wait. -/
def hasty : Config := { tc with maxTries := 1, txWait := 0, rxWait := 0 }

/-- SEND_RELIABLE gives up after its one attempt, and ends with OK; each within a few steps. -/
theorem witness_retryBound :
    (∃ u, finishes (.sendReliable 0 []) 5
        { linked with cfg := hasty, env := { tx := [.count 4], rx := [.empty], ticks := [0, 0] } } = some u ∧
        (u.rsp.status == .giveUp) = true) ∧
      ∃ u, finishes (.sendReliable 0 []) 8
        { linked with
          cfg := hasty
          env := { tx := [.count 4], rx := [0x7E, 0x03, 0x00, 0x06, 0x09].map .byte, ticks := [0] } } = some u ∧
        (u.rsp.status == .ok) = true :=
  ⟨ended_some (by decide), ended_some (by decide)⟩

theorem witness_cleanExchange :
    let s := { linked with env := { tx := [.count 7], ticks := [0], rx := [0x7E, 0x03, 0x00, 0x06, 0x09].map .byte } }
    (3#9).toNat = abc.length ∧ s.ustate = .idle ∧ s.phase = .connected ∧ abc.length ≤ s.cfg.maxBlock ∧
      s.env.tx = .count (abc.length + 4) :: [] ∧ s.env.ticks = 0 :: [] ∧
      s.env.rx = (ackBytes s.cfg .pos (zext8 s.txSeq)).map RxAnswer.byte ++ [] := by
  refine ⟨rfl, rfl, rfl, by decide, rfl, rfl, by decide⟩

/-! ### Receives -/

theorem witness_receivesBeginToWait :
    (State.at linked (.recvBasic 9) .locateNow).ustate = .busy (.recvBasic 9) .locateNow ∧
      (State.at linked (.recvReliable 9) .locateNow).ustate = .busy (.recvReliable 9) .locateNow := by decide

theorem witness_receiveTimeouts :
    let s := locating (.recvBasic 9) .huntNow
    s.ustate = .busy (.recvBasic 9) .huntNow ∧ s.findsNone .huntNow { s with env := { now := 5 } } ∧
      s.tries < s.cfg.maxTries ∧ ({ s with tries := 3 } : State).cfg.maxTries ≤ 3 :=
  ⟨rfl, .inl ⟨.inl rfl, by decide, by rfl⟩, by decide, by decide⟩

/-- A good frame and a bad one are completed. -/
theorem witness_recvBasic :
    let s := fun b : Byte => State.hears (receiving (.recvBasic 2) 15) [b]
    (s 0x0B).ustate = .busy (.recvBasic 2) .bodyRead ∧ (s 0x0B).completes .bodyRead abcFrame {} ∧
      byteSum ((abcFrame.drop 1).dropLast) % 250 = (abcFrame.getLastD 0).toNat ∧
      (s 0x0C).completes .bodyRead [0x7E, 0x05, 0x00, 0x01, 0x02, 0x03, 0x0C] {} :=
  ⟨rfl, ⟨[0x7E, 0x05, 0x00, 0x01, 0x02, 0x03], 0x0B, rfl, rfl, by decide, .inl ⟨rfl, by decide, by decide⟩⟩, by decide,
    ⟨[0x7E, 0x05, 0x00, 0x01, 0x02, 0x03], 0x0C, rfl, rfl, by decide, .inl ⟨rfl, by decide, by decide⟩⟩⟩

/-- Safe states in which RECV_RELIABLE waits for the last byte of a frame: the expected one, a duplicate, a bad one. -/
theorem receiving_inv :
    (State.hears (receiving (.recvReliable 255) 15) [0x0B]).Inv ∧
      (State.hears (receiving (.recvReliable 255) 0) [0x0B]).Inv ∧
      (State.hears (receiving (.recvReliable 255) 15) [0x0C]).Inv := by
  refine ⟨?_, ?_, ?_⟩ <;>
  · refine ⟨by constructor <;> decide, rfl, rfl, rfl, fun _ => rfl, fun _ => by decide,
      ⟨rfl, by decide, by decide, ?_, by decide, by decide⟩, rfl, fun _ _ h => by cases h⟩
    intro j h2 h4
    have : j = 2 ∨ j = 3 ∨ j = 4 ∨ j = 5 := by simp only [receiving, State.at, State.hears] at h4; simp at h4; omega
    rcases this with rfl | rfl | rfl | rfl <;> exact ⟨_, rfl⟩

/-- The expected frame, a duplicate and a bad one, each completed from a safe state. -/
theorem witness_recvReliableAnswers :
    let s := fun (q : SeqNum) (b : Byte) => State.hears (receiving (.recvReliable 255) q) [b]
    ((s 15 0x0B).Inv ∧ (s 0 0x0B).Inv ∧ (s 15 0x0C).Inv) ∧ (s 15 0x0B).ustate = .busy (.recvReliable 255) .bodyRead ∧
      (s 15 0x0B).completes .bodyRead abcFrame {} ∧ abcFrame.getD 2 0 = ((s 15 0x0B).rxLast + 1).setWidth 8 ∧
      (s 0 0x0B).completes .bodyRead abcFrame {} ∧ abcFrame.getD 2 0 ≠ ((s 0 0x0B).rxLast + 1).setWidth 8 ∧
      (s 15 0x0C).completes .bodyRead [0x7E, 0x05, 0x00, 0x01, 0x02, 0x03, 0x0C] {} :=
  ⟨receiving_inv, rfl, ⟨[0x7E, 0x05, 0x00, 0x01, 0x02, 0x03], 0x0B, rfl, rfl, by decide, .inl ⟨rfl, by decide, by decide⟩⟩,
    by decide, ⟨[0x7E, 0x05, 0x00, 0x01, 0x02, 0x03], 0x0B, rfl, rfl, by decide, .inl ⟨rfl, by decide, by decide⟩⟩, by decide,
    ⟨[0x7E, 0x05, 0x00, 0x01, 0x02, 0x03], 0x0C, rfl, rfl, by decide, .inl ⟨rfl, by decide, by decide⟩⟩⟩

theorem witness_recvReliableAccepts :
    (accepting.ustate = .busy (.recvReliable 255) (.acceptWrite 0x00 abc) ∧ accepting.env.txWrite 5 = .ok (.count 5, {})) ∧
      (State.at linked (.recvReliable 255) .ackWrite).ustate = .busy (.recvReliable 255) .ackWrite ∧
      accepting.tries < accepting.cfg.maxTries := ⟨⟨rfl, rfl⟩, rfl, by decide⟩

/-- RECV_RELIABLE delivers the next block, and gives up; each within a few steps. -/
theorem witness_receiveDeliversOnlyTheNextBlock :
    (∃ u, finishes (.recvReliable 9) 7
        { linked with env := { tx := [.count 5], rx := [0x7E, 0x02, 0x00, 0x02].map .byte, ticks := [0] } } = some u ∧
        (u.rsp.status == .ok) = true) ∧
      ∃ u, finishes (.recvReliable 9) 4 { linked with cfg := hasty, env := { rx := [.empty], ticks := [0, 0] } } =
        some u ∧ (u.rsp.status == .giveUp) = true :=
  ⟨ended_some (by decide), ended_some (by decide)⟩

theorem witness_receiveDeliversTheExpectedFrame :
    let s := { linked with env := { tx := [.count 5], ticks := [0], rx := abcFrame.map .byte } }
    s.ustate = .idle ∧ s.phase = .connected ∧ abc.length ≤ 253 ∧ s.env.tx = .count 5 :: [] ∧ s.env.ticks = 0 :: [] ∧
      s.env.rx = (frameBytes s.cfg.marker (zext8 (s.rxLast + 1)) abc).map RxAnswer.byte ++ [] := by
  refine ⟨rfl, rfl, by decide, rfl, rfl, by decide⟩

end Sys2Proof.Tests
end

section
/-! SUPPORT. What one step of a command does at the block's ports, from any state whatever (spec/00_scope.md R10,
spec/10_state.md R22, spec/30_encoding.md R94): it takes at most an answer of the environment, computes, and then
responds or issues one request. -/

namespace Sys2Proof.Machine

/-! ## What an answer of the environment leaves alone -/

/-- An answer of a primitive touches neither the command port nor reset nor the record of requests, and time has not
gone back (R10). -/
structure Env.answersTo (e e' : Env) : Prop where
  cmds : e'.cmds = e.cmds
  taken : e'.taken = e.taken
  rst : e'.rst = e.rst
  log : e'.log = e.log
  now : e.now ≤ e'.now

theorem Env.answersTo.refl (e : Env) : e.answersTo e := ⟨rfl, rfl, rfl, rfl, Nat.le_refl _⟩

theorem Env.answersTo.trans {e e' e'' : Env} (h : e.answersTo e') (h' : e'.answersTo e'') : e.answersTo e'' :=
  ⟨h'.cmds.trans h.cmds, h'.taken.trans h.taken, h'.rst.trans h.rst, h'.log.trans h.log, Nat.le_trans h.now h'.now⟩

theorem Env.rxRead_answersTo (e : Env) : e.answersTo e.rxRead.2 := by
  obtain ⟨hnow, hcmds, htaken, hrst, -, -, -, hlog⟩ := e.rxRead_frame
  exact ⟨hcmds, htaken, hrst, hlog, hnow.ge⟩

theorem Env.ctrlAnswer_answersTo (e : Env) : e.answersTo e.ctrlAnswer.2 := by
  obtain ⟨hnow, hcmds, htaken, hrst, -, -, -, hlog⟩ := e.ctrlAnswer_frame
  exact ⟨hcmds, htaken, hrst, hlog, hnow.ge⟩

theorem Env.readNow_answersTo (e : Env) : e.answersTo e.readNow.2 := by
  obtain ⟨hle, hnow, hcmds, htaken, hrst, -, -, -, hlog⟩ := e.readNow_frame
  exact ⟨hcmds, htaken, hrst, hlog, hnow ▸ hle⟩

theorem Env.txWrite_answersTo {e e' : Env} {len : Nat} {a : TxAnswer} (h : e.txWrite len = .ok (a, e')) :
    e.answersTo e' := by
  rcases e.txWrite_cases len with ⟨b, e'', hb, -, hnow, hcmds, htaken, hrst, -, -, -, hlog⟩ | ⟨k, hk⟩
  · cases hb.symm.trans h
    exact ⟨hcmds, htaken, hrst, hlog, hnow.ge⟩
  · cases hk.symm.trans h

/-! ## What a command's own computation leaves alone -/

/-- The block goes from `s` to `t` within one step, before it responds or issues: the configuration and the response
registers are as they were, no response has come to wait, and the environment has at most answered. -/
structure State.portsFrame (s t : State) : Prop where
  cfg : t.cfg = s.cfg
  rsp : t.rsp = s.rsp
  pending : t.rspPending = true → s.rspPending = true
  env : s.env.answersTo t.env

theorem State.portsFrame.refl (s : State) : s.portsFrame s := ⟨rfl, rfl, id, .refl _⟩

/-- A command that starts has had the last response taken (60_exceptions.md R225). -/
theorem State.portsFrame_accept (s : State) : s.portsFrame (s.setRspPending false) :=
  ⟨rfl, rfl, fun h => absurd h Bool.false_ne_true, .refl _⟩

/-- Writes to the other registers and the buffers stay within the frame: each equation holds by unfolding
them. -/
theorem State.portsFrame.keep {s t u : State} (h : s.portsFrame t) (hcfg : u.cfg = t.cfg := by rfl)
    (hrsp : u.rsp = t.rsp := by rfl) (hpending : u.rspPending = t.rspPending := by rfl)
    (henv : u.env = t.env := by rfl) : s.portsFrame u :=
  ⟨hcfg.trans h.cfg, hrsp.trans h.rsp, fun hu => h.pending (hpending ▸ hu), henv ▸ h.env⟩

/-- An answer of the environment stays within the frame. -/
theorem State.portsFrame.setEnv {s t : State} {e : Env} (h : s.portsFrame t) (he : t.env.answersTo e) :
    s.portsFrame (t.setEnv e) :=
  ⟨h.cfg, h.rsp, h.pending, h.env.trans he⟩

theorem State.portsFrame.readNow {s t : State} (h : s.portsFrame t) : s.portsFrame t.readNow.2 :=
  h.setEnv t.env.readNow_answersTo

theorem State.portsFrame.ctrlAnswer {s t : State} (h : s.portsFrame t) : s.portsFrame t.ctrlAnswer.2 :=
  h.setEnv t.env.ctrlAnswer_answersTo

theorem State.portsFrame.afterLocate {s t : State} {k : Point} {e : Env} {m : Memory} (h : s.portsFrame t)
    (he : LocateEffect k t e m) (dl max need cnt) : s.portsFrame (t.afterLocate e dl max need cnt m) := by
  rcases he.env with ⟨-, -, rfl⟩ | ⟨-, -, rfl⟩
  · exact (h.setEnv t.env.rxRead_answersTo).keep
  · exact (h.setEnv t.env.readNow_answersTo).keep

theorem State.portsFrame.verify {s t u : State} {len : Nat} {good : Bool} (h : s.portsFrame t)
    (hv : t.verify len = .ok (good, u)) : s.portsFrame u := by
  obtain ⟨acc, rfl⟩ := State.verify_frame hv
  exact h.keep

/-- A byte string that goes into a buffer changes that buffer only. -/
theorem State.memWriteAll_eq_ok {s t : State} {b : BufName} {i : Nat} {bytes : List Byte}
    (h : s.memWriteAll b i bytes = .ok t) : ∃ m, t = s.setBuf b m := by
  obtain ⟨m, -, rfl⟩ := except_map_eq_ok h
  exact ⟨m, rfl⟩

theorem State.portsFrame.loadRxf {s t u : State} {n : Len} {d : List Byte} (h : s.portsFrame t)
    (hl : t.loadRxf n d = .ok u) : s.portsFrame u := by
  obtain ⟨v, hv, rfl⟩ := except_map_eq_ok hl
  obtain ⟨m, rfl⟩ := State.memWriteAll_eq_ok hv
  exact h.keep

theorem State.portsFrame.encode {s t u : State} {p : List Byte} {seq : Byte} (h : s.portsFrame t)
    (he : t.encode p seq = .ok (some u)) : s.portsFrame u := by
  rcases Nat.lt_or_ge 253 p.length with hp | hp
  · cases (t.encode_tooLarge seq hp).symm.trans he
  · cases (t.encode_ok seq hp).symm.trans he
    exact h.keep

/-! ## How a step of a command ends -/

/-- What a step of command `i` answers from `s`: from a state within the frame of `s` it sends its response, or issues
one request and waits for it; or it stops. -/
def State.respondsOrIssues (s : State) (i : Instr) : Out → Prop
  | .next t => ∃ u, s.portsFrame u ∧ ((∃ r, t = u.respond r) ∨ ∃ k q, t = u.issue i k q)
  | .fault _ => True
  | .refused _ => True

section
variable {s u : State} {i : Instr} {go : State → Out}

theorem State.portsFrame.responds (h : s.portsFrame u) (r : Response) : s.respondsOrIssues i (.next (u.respond r)) :=
  ⟨u, h, .inl ⟨r, rfl⟩⟩

theorem State.portsFrame.issues (h : s.portsFrame u) (k : Point) (q : Request) :
    s.respondsOrIssues i (.next (u.issue i k q)) :=
  ⟨u, h, .inr ⟨k, q, rfl⟩⟩

theorem respondsOrIssues_orFault {α : Type} {x : Except Fault α} {go : α → Out}
    (hgo : ∀ a, x = .ok a → s.respondsOrIssues i (go a)) : s.respondsOrIssues i (orFault x go) := by
  cases x with
  | ok a => exact hgo a rfl
  | error f => trivial

theorem State.portsFrame.needOperand {n : Len} (h : s.portsFrame u) (hgo : s.respondsOrIssues i (go u)) :
    s.respondsOrIssues i (u.needOperand n go) := by
  unfold State.needOperand
  split
  · exact h.responds _
  · exact hgo

theorem State.portsFrame.needConnected (h : s.portsFrame u) (hgo : s.respondsOrIssues i (go u)) :
    s.respondsOrIssues i (u.needConnected go) := by
  unfold State.needConnected
  split
  · exact hgo
  · exact h.responds _

theorem State.portsFrame.needBlock {n : Len} (h : s.portsFrame u) (hgo : s.respondsOrIssues i (go u)) :
    s.respondsOrIssues i (u.needBlock n go) := by
  unfold State.needBlock
  split
  · exact h.responds _
  · exact hgo

theorem State.portsFrame.afterWrite (h : s.portsFrame u) (len : Nat)
    (hgo : ∀ v, s.portsFrame v → s.respondsOrIssues i (go v)) : s.respondsOrIssues i (u.afterWrite len go) := by
  refine respondsOrIssues_orFault fun a ha => ?_
  obtain ⟨⟨ans, e⟩, he, rfl⟩ := except_map_eq_ok ha
  have hv : s.portsFrame (u.setEnv e) := h.setEnv (Env.txWrite_answersTo he)
  cases ans with
  | err x => exact hv.responds _
  | count k =>
    dsimp only
    split
    · exact hv.responds _
    · exact hgo _ hv

theorem State.portsFrame.afterAck (h : s.portsFrame u) (kind : AckKind)
    (hgo : ∀ v, s.portsFrame v → s.respondsOrIssues i (go v)) : s.respondsOrIssues i (u.afterAck kind go) :=
  h.afterWrite ackLen fun _ hv => hgo _ hv.keep

theorem State.portsFrame.nextAttempt (h : s.portsFrame u) (hgo : ∀ v, s.portsFrame v → s.respondsOrIssues i (go v)) :
    s.respondsOrIssues i (u.nextAttempt go) := by
  unfold State.nextAttempt
  split
  · exact hgo _ h.keep
  · exact h.responds _

theorem State.portsFrame.callAck (h : s.portsFrame u) (k : Point) (kind : AckKind) (seq : Byte) :
    s.respondsOrIssues i (orFault (u.callAck i k kind seq) .next) := by
  rw [State.callAck_ok]
  exact State.portsFrame.issues h.keep _ _

theorem State.portsFrame.sendAttempt (h : s.portsFrame u) : s.respondsOrIssues i (sendAttempt i u) := by
  refine respondsOrIssues_orFault fun t ht => ?_
  obtain ⟨bytes, -, rfl⟩ := except_map_eq_ok ht
  exact h.issues _ _

theorem State.portsFrame.recvAttempt (h : s.portsFrame u) : s.respondsOrIssues i (recvAttempt i u) := h.issues _ _

/-- `Locate` run on: it waits again, or the command goes on with its result from within the frame. -/
theorem State.portsFrame.runLocate {max : Len} {limit : Time} {k : Point} {go : LocateResult → State → Out}
    (h : s.portsFrame u) (hgo : ∀ r v, s.portsFrame v → s.respondsOrIssues i (go r v)) :
    s.respondsOrIssues i (u.runLocate i max limit k go) := by
  refine respondsOrIssues_orFault fun r hr => ?_
  obtain ⟨e, dl, max, need, cnt, m, heff, -, hform⟩ := locateStep_form hr
  have hv := h.afterLocate heff dl max need cnt
  cases r with
  | waits t =>
    obtain ⟨k', q, -, -, rfl⟩ := hform
    exact hv.issues _ _
  | returns res t =>
    obtain ⟨len, rfl, -⟩ := hform
    exact hgo _ _ hv.keep

/-- A command's meaning ends so when it does from acceptance and after each primitive; another command's running stops
it. -/
theorem respondsOrIssues_running {start : State → Out} {resume : Point → State → Out}
    (hstart : ∀ u, s.portsFrame u → s.respondsOrIssues i (start u))
    (hresume : ∀ k, s.respondsOrIssues i (resume k s)) : s.respondsOrIssues i (s.running i start resume) := by
  unfold State.running
  split
  · exact hstart _ s.portsFrame_accept
  · split
    · exact hresume _
    · trivial

end

/-! ## Every command ends so -/

section
variable (s : State)

theorem execCsCompute_respondsOrIssues (a b : Byte) (n : Len) (d : List Byte) :
    s.respondsOrIssues (.csCompute a b n d) (execCsCompute a b n d s) :=
  respondsOrIssues_running (fun _ h => h.needOperand (State.portsFrame.responds h.keep _)) fun _ => trivial

theorem execCsVerify_respondsOrIssues (n : Len) (d : List Byte) :
    s.respondsOrIssues (.csVerify n d) (execCsVerify n d s) :=
  respondsOrIssues_running
    (fun _ h => h.needOperand <|
      respondsOrIssues_orFault fun _ hl => respondsOrIssues_orFault fun _ hv => ((h.loadRxf hl).verify hv).responds _)
    fun _ => trivial

theorem execEncode_respondsOrIssues (a : Byte) (n : Len) (d : List Byte) :
    s.respondsOrIssues (.encode a n d) (execEncode a n d s) := by
  refine respondsOrIssues_running (fun u h => h.needOperand (respondsOrIssues_orFault fun r hr => ?_)) fun _ => trivial
  cases r with
  | none => exact h.responds _
  | some v => exact respondsOrIssues_orFault fun _ _ => (h.encode hr).responds _

theorem execDecode_respondsOrIssues (n : Len) (d : List Byte) (c : Len) :
    s.respondsOrIssues (.decode n d c) (execDecode n d c s) := by
  refine respondsOrIssues_running (fun u h => h.needOperand ?_) fun _ => trivial
  split
  · exact h.responds _
  · exact respondsOrIssues_orFault fun _ hl => respondsOrIssues_orFault fun _ _ => (h.loadRxf hl).responds _

theorem execLocate_respondsOrIssues (c : Len) (t : Time) : s.respondsOrIssues (.locate c t) (execLocate c t s) := by
  refine respondsOrIssues_running (fun _ h => h.needConnected (h.issues _ _)) fun k =>
    (State.portsFrame.refl s).runLocate fun r v hv => ?_
  cases r with
  | frame len => exact respondsOrIssues_orFault fun _ _ => hv.responds _
  | noFrame => exact hv.responds _
  | transportErr x => exact hv.responds _

theorem execSetDeadline_respondsOrIssues (t : Time) : s.respondsOrIssues (.setDeadline t) (execSetDeadline t s) := by
  refine respondsOrIssues_running (fun _ h => h.issues _ _) fun k => ?_
  unfold setDeadlineResume
  split
  · exact State.portsFrame.responds (State.portsFrame.refl s).readNow.keep _
  · trivial

theorem execIsElapsed_respondsOrIssues : s.respondsOrIssues .isElapsed (execIsElapsed s) := by
  refine respondsOrIssues_running (fun _ h => h.issues _ _) fun k => ?_
  unfold isElapsedResume
  split
  · exact (State.portsFrame.refl s).readNow.responds _
  · trivial

theorem execConnect_respondsOrIssues (a : Byte) : s.respondsOrIssues (.connect a) (execConnect a s) := by
  refine respondsOrIssues_running (fun u h => ?_) fun k => ?_
  · unfold connectStart
    split
    · exact h.responds _
    · exact h.issues _ _
  · have h := State.portsFrame.refl s
    unfold connectResume
    split
    · rw [State.ctrlAnswer_eq]
      cases s.env.ctrlAnswer.1 with
      | err x => exact h.ctrlAnswer.responds _
      | ok => exact State.portsFrame.issues h.ctrlAnswer.keep _ _
    · exact State.portsFrame.responds h.readNow.keep _
    · trivial

theorem execDisconnect_respondsOrIssues : s.respondsOrIssues .disconnect (execDisconnect s) := by
  refine respondsOrIssues_running (fun u h => h.needConnected (h.issues _ _)) fun k => ?_
  have h := State.portsFrame.refl s
  unfold disconnectResume
  split
  · exact h.ctrlAnswer.issues _ _
  · exact State.portsFrame.responds h.readNow.keep _
  · trivial

/-- The checks and the encoding both sends begin with. -/
theorem State.portsFrame.sendChecked {s u : State} {i : Instr} {n : Len} {d : List Byte} {go : State → Out}
    (h : s.portsFrame u) (hgo : ∀ v, s.portsFrame v → s.respondsOrIssues i (go v)) :
    s.respondsOrIssues i (sendChecked n d u go) := by
  refine h.needOperand (h.needConnected (h.needBlock (respondsOrIssues_orFault fun r hr => ?_)))
  cases r with
  | none => exact h.responds _
  | some v => exact hgo _ (h.encode hr)

theorem execSendBasic_respondsOrIssues (n : Len) (d : List Byte) :
    s.respondsOrIssues (.sendBasic n d) (execSendBasic n d s) := by
  refine respondsOrIssues_running (fun _ h => h.sendChecked fun _ hv => hv.sendAttempt) fun k => ?_
  unfold sendBasicResume
  split
  · exact (State.portsFrame.refl s).afterWrite _ fun _ hv => State.portsFrame.responds hv.keep _
  · trivial

theorem State.portsFrame.sendReturn {s u : State} {i : Instr} (h : s.portsFrame u) (r : LocateResult) :
    s.respondsOrIssues i (sendReturn i r u) := by
  have hattempt : ∀ v, s.portsFrame v → s.respondsOrIssues i (Machine.sendAttempt i v) := fun _ hv => hv.sendAttempt
  cases r with
  | transportErr x => exact h.responds _
  | noFrame => exact State.portsFrame.nextAttempt h.keep hattempt
  | frame len =>
    refine respondsOrIssues_orFault fun ⟨good, v⟩ hver => ?_
    have hv := h.verify hver
    cases good with
    | false => exact State.portsFrame.nextAttempt hv.keep hattempt
    | true =>
      refine respondsOrIssues_orFault fun ⟨st, aseq⟩ _ => ?_
      dsimp only
      split
      · exact State.portsFrame.responds hv.keep _
      · exact State.portsFrame.nextAttempt hv.keep hattempt

theorem execSendReliable_respondsOrIssues (n : Len) (d : List Byte) :
    s.respondsOrIssues (.sendReliable n d) (execSendReliable n d s) := by
  refine respondsOrIssues_running (fun _ h => h.sendChecked fun _ hv => State.portsFrame.sendAttempt hv.keep)
    fun k => ?_
  have h := State.portsFrame.refl s
  unfold sendReliableResume
  split
  · exact h.afterWrite _ fun _ hv => State.portsFrame.issues hv.keep _ _
  · exact h.runLocate fun r _ hv => hv.sendReturn r

theorem execRecvBasic_respondsOrIssues (c : Len) : s.respondsOrIssues (.recvBasic c) (execRecvBasic c s) := by
  refine respondsOrIssues_running (fun _ h => h.needConnected (State.portsFrame.recvAttempt h.keep)) fun k =>
    (State.portsFrame.refl s).runLocate fun r u h => ?_
  cases r with
  | transportErr x => exact h.responds _
  | noFrame => exact State.portsFrame.nextAttempt h.keep fun _ hv => hv.recvAttempt
  | frame len =>
    refine respondsOrIssues_orFault fun ⟨good, v⟩ hver => ?_
    have hv := h.verify hver
    cases good with
    | false => exact State.portsFrame.responds hv.keep _
    | true => exact respondsOrIssues_orFault fun _ _ => State.portsFrame.responds hv.keep _

theorem State.portsFrame.recvReliableReturn {s u : State} (c : Len) (h : s.portsFrame u) (r : LocateResult) :
    s.respondsOrIssues (.recvReliable c) (recvReliableReturn c r u) := by
  cases r with
  | transportErr x => exact h.responds _
  | noFrame => exact State.portsFrame.nextAttempt h.keep fun _ hv => hv.recvAttempt
  | frame len =>
    refine respondsOrIssues_orFault fun ⟨good, v⟩ hver => ?_
    have hv := h.verify hver
    cases good with
    | false => exact respondsOrIssues_orFault fun _ _ => State.portsFrame.callAck hv.keep _ _ _
    | true =>
      refine respondsOrIssues_orFault fun ⟨p, seq⟩ _ => ?_
      have hg : s.portsFrame (v.inc .goodRcvd) := hv.keep
      dsimp only
      split
      · exact hg.callAck _ _ _
      · split <;> exact hg.callAck _ _ _

theorem execRecvReliable_respondsOrIssues (c : Len) : s.respondsOrIssues (.recvReliable c) (execRecvReliable c s) := by
  refine respondsOrIssues_running (fun _ h => h.needConnected (State.portsFrame.recvAttempt h.keep)) fun k => ?_
  have h := State.portsFrame.refl s
  unfold recvReliableResume
  split
  · exact h.afterAck _ fun _ hv => State.portsFrame.responds hv.keep _
  · exact h.afterAck _ fun _ hv => hv.nextAttempt fun _ hw => hw.recvAttempt
  · exact h.runLocate fun r _ hv => hv.recvReliableReturn c r

theorem execSendAck_respondsOrIssues (a : Byte) (kind : AckKind) :
    s.respondsOrIssues (.sendAck a kind) (execSendAck a kind s) := by
  refine respondsOrIssues_running (fun _ h => h.needConnected (h.callAck _ _ _)) fun k => ?_
  unfold sendAckResume
  split
  · exact (State.portsFrame.refl s).afterAck _ fun _ hv => hv.responds _
  · trivial

theorem execGetOptBlock_respondsOrIssues : s.respondsOrIssues .getOptBlock (execGetOptBlock s) :=
  respondsOrIssues_running (fun _ h => h.responds _) fun _ => trivial

/-- R10, R22: every step of every command, from any state. -/
theorem exec_respondsOrIssues (i : Instr) : s.respondsOrIssues i (exec i s) := by
  cases i with
  | csCompute a b n d => exact execCsCompute_respondsOrIssues s a b n d
  | csVerify n d => exact execCsVerify_respondsOrIssues s n d
  | encode a n d => exact execEncode_respondsOrIssues s a n d
  | decode n d c => exact execDecode_respondsOrIssues s n d c
  | locate c t => exact execLocate_respondsOrIssues s c t
  | setDeadline t => exact execSetDeadline_respondsOrIssues s t
  | isElapsed => exact execIsElapsed_respondsOrIssues s
  | connect a => exact execConnect_respondsOrIssues s a
  | disconnect => exact execDisconnect_respondsOrIssues s
  | sendBasic n d => exact execSendBasic_respondsOrIssues s n d
  | sendReliable n d => exact execSendReliable_respondsOrIssues s n d
  | recvBasic c => exact execRecvBasic_respondsOrIssues s c
  | recvReliable c => exact execRecvReliable_respondsOrIssues s c
  | sendAck a kind => exact execSendAck_respondsOrIssues s a kind
  | getOptBlock => exact execGetOptBlock_respondsOrIssues s

end

/-- The next state of a step of a command is a response or an issue within the frame. -/
theorem exec_next_cases {s t : State} {i : Instr} (h : exec i s = .next t) :
    ∃ u, s.portsFrame u ∧ ((∃ r, t = u.respond r) ∨ ∃ k q, t = u.issue i k q) := by
  have hi := exec_respondsOrIssues s i
  rwa [h] at hi

end Sys2Proof.Machine
end

section
open Sys2Proof Sys2Proof.Machine

/-- Settles O8: up to its last operation a step stays within `State.portsFrame`, and that operation is `respond` or
`issue`. -/
theorem everyStepRespondsOrIssuesOneRequest : Obligations.EveryStepRespondsOrIssuesOneRequest := by
  unfold Obligations.EveryStepRespondsOrIssuesOneRequest
  intro s t i _ h
  obtain ⟨u, hu, ⟨r, rfl⟩ | ⟨k, q, rfl⟩⟩ := exec_next_cases h
  · exact .inl ⟨rfl, rfl, hu.env.log⟩
  · exact .inr ⟨k, q, rfl, hu.rsp, by simp [hu.env.log], hu.pending⟩

end

section
/-! SUPPORT. Everything one step of the machine can be (spec/60_exceptions.md R224, R225, R234, spec/30_encoding.md R89,
R94). -/

namespace Sys2Proof.Machine

/-- What a step with reset not asserted can be when it ends in `t`: the running command goes on, the host takes the
response that waits, nothing happens, or the host's next record is accepted or answered as illegal. -/
inductive State.Turn (s t : State) : Prop where
  | runs (i : Instr) (k : Point) (busy : s.ustate = .busy i k) (ran : exec i s = .next t)
  | takes (idle : s.ustate = .idle) (pending : s.rspPending = true) (taken : t = s.takeResponse)
  | waits (idle : s.ustate = .idle) (pending : s.rspPending = false) (none : s.env.cmds = []) (same : t = s)
  | accepts (c : Command) (rest : List Command) (i : Instr) (idle : s.ustate = .idle) (pending : s.rspPending = false)
      (record : s.env.cmds = c :: rest) (decoded : decodeCommand c = .ok i) (ran : exec i s.dropCommand = .next t)
  | illegal (c : Command) (rest : List Command) (op : Byte) (idle : s.ustate = .idle) (pending : s.rspPending = false)
      (record : s.env.cmds = c :: rest) (unassigned : decodeCommand c = .error (.illegalOpcode op))
      (answered : t = s.dropCommand.answerIllegal)

theorem stepRunning_turn {s t : State} (h : stepRunning s = .next t) : s.Turn t := by
  unfold stepRunning at h
  split at h
  · exact .runs _ _ ‹_› h
  · split at h
    · cases h; exact .takes ‹_› ‹_› rfl
    · unfold acceptNext at h
      split at h
      · cases h; exact .waits ‹_› ‹_› ‹_› rfl
      · split at h
        · exact .accepts _ _ _ ‹_› ‹_› ‹_› ‹_› h
        · cases h; exact .illegal _ _ _ ‹_› ‹_› ‹_› ‹_› rfl
        · cases h

/-- R224: a step is the reset, or a turn after the level of the reset input has been read. -/
theorem step_cases {s t : State} (h : step s = .next t) :
    (∃ rest, s.env.rst = true :: rest ∧ t = (s.setRst rest).applyReset) ∨
      (s.env.rst.head? ≠ some true ∧ (s.setRst s.env.rst.tail).Turn t) := by
  unfold step at h
  split at h
  · rename_i hrst
    have hsame : s.setRst s.env.rst.tail = s := by rw [hrst, List.tail_nil, ← hrst]; rfl
    exact .inr ⟨by simp [hrst], hsame.symm ▸ stepRunning_turn h⟩
  · rename_i rest hrst
    cases h
    exact .inl ⟨rest, hrst, rfl⟩
  · rename_i rest hrst
    exact .inr ⟨by simp [hrst], by rw [hrst]; exact stepRunning_turn h⟩

/-- R6, R10: a step of a command leaves the configuration, and time does not go back. -/
theorem exec_cfg_now {s t : State} {i : Instr} (h : exec i s = .next t) : t.cfg = s.cfg ∧ s.env.now ≤ t.env.now := by
  obtain ⟨u, hu, ⟨r, rfl⟩ | ⟨k, q, rfl⟩⟩ := exec_next_cases h <;> exact ⟨hu.cfg, hu.env.now⟩

theorem State.Turn.cfg_now {s t : State} (h : s.Turn t) : t.cfg = s.cfg ∧ s.env.now ≤ t.env.now := by
  cases h with
  | runs i k _ ran => exact exec_cfg_now ran
  | takes _ _ taken => subst taken; exact ⟨rfl, Nat.le_refl _⟩
  | waits _ _ _ same => subst same; exact ⟨rfl, Nat.le_refl _⟩
  | accepts c rest i _ _ _ _ ran => simpa using exec_cfg_now ran
  | illegal c rest op _ _ _ _ answered => subst answered; exact ⟨rfl, Nat.le_refl _⟩

end Sys2Proof.Machine
end

section
open Sys2Proof Sys2Proof.Machine

/-- Settles O15: reset keeps the configuration and the environment but for its own level, and no other turn of the
machine moves either in the wrong way. -/
theorem configurationStaysAndTimeAdvances : Obligations.ConfigurationStaysAndTimeAdvances := by
  unfold Obligations.ConfigurationStaysAndTimeAdvances
  intro s t h
  rcases step_cases h with ⟨rest, -, rfl⟩ | ⟨-, hturn⟩
  · exact ⟨rfl, Nat.le_refl _⟩
  · exact hturn.cfg_now

end

section
/-! SUPPORT. Noninterference of the time (spec/00_scope.md R10, spec/42_timer.md R164): every operation but `Now()` does
the same whatever the time, the deadline and the ticks to come. One lemma for each operation: with the clock replaced
before it, it answers what it answered, with the clock replaced after it. -/

namespace Sys2Proof.Machine

/-! ## Another clock -/

/-- A deadline, a time of the last reading and the ticks to come. -/
structure Clock where
  dl : Time
  now : Time
  ticks : List Time

/-- `e` with another time and other ticks to come. -/
def Env.retime (e : Env) (c : Clock) : Env := { e with now := c.now, ticks := c.ticks }

/-- `s` with another clock. -/
def State.retime (s : State) (c : Clock) : State := { s with dl := c.dl, env := s.env.retime c }

/-- The answer `o` with another clock in its next state. -/
def retimeOut (c : Clock) (o : Out) : Out := mapNext (·.retime c) o

/-- A computation that neither reads nor writes the clock. -/
def IgnoresTime (c : Clock) (f : State → Out) : Prop := ∀ s, f (s.retime c) = retimeOut c (f s)

/-- The answer of `Locate` with another clock in its state. -/
def LocateStep.retime (c : Clock) : LocateStep → LocateStep
  | .waits s => .waits (s.retime c)
  | .returns r s => .returns r (s.retime c)

section
variable (c : Clock) (s : State)

/-! ## Buffers and procedures -/

theorem State.buf_retime (b : BufName) : (s.retime c).buf b = s.buf b := by
  cases b <;> rfl

theorem State.memRead_retime (b : BufName) (i : Nat) : (s.retime c).memRead b i = s.memRead b i :=
  congrArg (Memory.read b · i) (s.buf_retime c b)

theorem State.memReadAll_retime (b : BufName) (i k : Nat) : (s.retime c).memReadAll b i k = s.memReadAll b i k :=
  congrArg (Memory.readAll b · i k) (s.buf_retime c b)

theorem State.setBuf_retime (b : BufName) (m : Memory) : (s.retime c).setBuf b m = (s.setBuf b m).retime c := by
  cases b <;> rfl

theorem State.memWrite_retime (b : BufName) (i : Nat) (v : Byte) :
    (s.retime c).memWrite b i v = (s.memWrite b i v).map (·.retime c) := by
  simp only [State.memWrite, State.buf_retime]
  cases Memory.write b (s.buf b) i v with
  | error f => rfl
  | ok m => simp only [Except.map, State.setBuf_retime]

theorem State.memWriteAll_retime (b : BufName) (i : Nat) (bytes : List Byte) :
    (s.retime c).memWriteAll b i bytes = (s.memWriteAll b i bytes).map (·.retime c) := by
  simp only [State.memWriteAll, State.buf_retime]
  cases Memory.writeAll b (s.buf b) i bytes with
  | error f => rfl
  | ok m => simp only [Except.map, State.setBuf_retime]

theorem State.verify_retime (len : Nat) :
    (s.retime c).verify len = (s.verify len).map (Prod.map id (·.retime c)) := by
  unfold State.verify
  simp only [State.memReadAll_retime, State.memRead_retime]
  split
  · rfl
  · cases s.memReadAll .rxf 1 (len - 2) <;> cases s.memRead .rxf (len - 1) <;> rfl

theorem State.decode_retime (len : Nat) (cap : Len) : (s.retime c).decode len cap = s.decode len cap := rfl

theorem State.encode_retime (p : List Byte) (seq : Byte) :
    (s.retime c).encode p seq = (s.encode p seq).map (Option.map (·.retime c)) := by
  rcases Nat.lt_or_ge 253 p.length with hp | hp
  · simp only [State.encode_tooLarge _ seq hp]; rfl
  · simp only [State.encode_ok _ seq hp]; rfl

theorem State.loadRxf_retime (n : Len) (d : List Byte) :
    (s.retime c).loadRxf n d = (s.loadRxf n d).map (·.retime c) := by
  simp only [State.loadRxf, State.memWriteAll_retime]
  cases s.memWriteAll .rxf 0 d <;> rfl

theorem State.callAck_retime (i : Instr) (k : Point) (kind : AckKind) (seq : Byte) :
    (s.retime c).callAck i k kind seq = (s.callAck i k kind seq).map (·.retime c) := by
  simp only [State.callAck_ok]; rfl

theorem State.callFrameWrite_retime (i : Instr) :
    (s.retime c).callFrameWrite i = (s.callFrameWrite i).map (·.retime c) := by
  have htxf : (s.retime c).txfLen = s.txfLen := rfl
  simp only [State.callFrameWrite, State.memReadAll_retime, htxf]
  cases s.memReadAll .txf 0 s.txfLen.toNat <;> rfl

/-! ## The environment's other answers -/

theorem State.rxRead_retime : (s.retime c).rxRead = (s.rxRead.1, s.rxRead.2.retime c) := by
  have henv : (s.env.retime c).rxRead = (s.env.rxRead.1, s.env.rxRead.2.retime c) := by
    unfold Env.rxRead
    cases h : s.env.rx <;> simp only [Env.retime, h]
  exact congrArg (fun a => (a.1, (s.retime c).setEnv a.2)) henv

theorem State.ctrlAnswer_retime : (s.retime c).ctrlAnswer = (s.ctrlAnswer.1, s.ctrlAnswer.2.retime c) := by
  have henv : (s.env.retime c).ctrlAnswer = (s.env.ctrlAnswer.1, s.env.ctrlAnswer.2.retime c) := by
    unfold Env.ctrlAnswer
    cases h : s.env.ctrl <;> simp only [Env.retime, h]
  exact congrArg (fun a => (a.1, (s.retime c).setEnv a.2)) henv

theorem Env.txWrite_retime (e : Env) (len : Nat) :
    (e.retime c).txWrite len = (e.txWrite len).map (Prod.map id (·.retime c)) := by
  unfold Env.txWrite
  have htx : (e.retime c).tx = e.tx := rfl
  rw [htx]
  split
  · split <;> rfl
  · rfl
  · rfl

theorem State.txAnswer_retime (len : Nat) :
    (s.retime c).txAnswer len = (s.txAnswer len).map (Prod.map id (·.retime c)) := by
  have henv : (s.retime c).env = s.env.retime c := rfl
  simp only [State.txAnswer, henv, Env.txWrite_retime]
  cases s.env.txWrite len <;> rfl

/-! ## Locate, away from its readings of the time -/

theorem locateBody_retime (i : Instr) : locateBody i (s.retime c) = (locateBody i s).retime c := by
  unfold locateBody
  rw [apply_ite (LocateStep.retime c)]
  rfl

/-- A byte is stored, and the procedure goes on. -/
theorem State.memWrite_map_retime {f : State → LocateStep} (hf : ∀ u, f (u.retime c) = (f u).retime c) (b : BufName)
    (i : Nat) (v : Byte) :
    ((s.retime c).memWrite b i v).map f = ((s.memWrite b i v).map f).map (LocateStep.retime c) := by
  rw [State.memWrite_retime]
  cases s.memWrite b i v with
  | error e => rfl
  | ok u => exact congrArg Except.ok (hf u)

theorem locateHunt_retime (i : Instr) : locateHunt i (s.retime c) = (locateHunt i s).map (LocateStep.retime c) := by
  unfold locateHunt
  rw [State.rxRead_retime]
  obtain ⟨ans, u⟩ := s.rxRead
  cases ans with
  | err x => rfl
  | empty => rfl
  | byte b =>
    dsimp only
    rw [apply_ite (Except.map (LocateStep.retime c)), ← State.memWrite_map_retime c u fun _ => rfl]
    rfl

theorem locateSize_retime (i : Instr) : locateSize i (s.retime c) = (locateSize i s).map (LocateStep.retime c) := by
  unfold locateSize
  rw [State.rxRead_retime]
  obtain ⟨ans, u⟩ := s.rxRead
  cases ans with
  | err x => rfl
  | empty => rfl
  | byte b =>
    refine State.memWrite_map_retime c (u.setLocNeed b) (fun v => ?_) _ _ _
    rw [apply_ite (LocateStep.retime c), ← locateBody_retime]
    rfl

theorem locateByte_retime (i : Instr) : locateByte i (s.retime c) = (locateByte i s).map (LocateStep.retime c) := by
  unfold locateByte
  rw [State.rxRead_retime]
  obtain ⟨ans, u⟩ := s.rxRead
  cases ans with
  | err x => rfl
  | empty => rfl
  | byte b => exact State.memWrite_map_retime c u (fun v => locateBody_retime c (v.setLocCnt (v.locCnt + 1)) i) _ _ _

/-- R134: at a read the procedure looks neither at the time nor at the deadline. -/
theorem locateStep_retime {k : Point} (hk : readsTime k = false) (i : Instr) (max : Len) (limit : Time) :
    locateStep i max limit k (s.retime c) = (locateStep i max limit k s).map (LocateStep.retime c) := by
  cases k
  case huntRead => exact locateHunt_retime c s i
  case sizeRead => exact locateSize_retime c s i
  case bodyRead => exact locateByte_retime c s i
  all_goals cases hk <;> rfl

/-! ## Going on -/

variable {c} {s}

theorem orFault_retime {α : Type} {x x' : Except Fault α} {g : α → α} {go go' : α → Out} (hx : x' = x.map g)
    (hgo : ∀ a, go' (g a) = retimeOut c (go a)) : orFault x' go' = retimeOut c (orFault x go) := by
  subst hx
  cases x with
  | ok a => exact hgo a
  | error f => rfl

/-- The same, after an operation that gives no state back. -/
theorem orFault_retime_same {α : Type} {x : Except Fault α} {go go' : α → Out}
    (hgo : ∀ a, go' a = retimeOut c (go a)) : orFault x go' = retimeOut c (orFault x go) :=
  orFault_retime (g := id) (by cases x <;> rfl) hgo

/-- A branch on what is no part of the clock. -/
theorem ite_retime {p : Prop} [Decidable p] {a a' b b' : Out} (ha : a' = retimeOut c a) (hb : b' = retimeOut c b) :
    (if p then a' else b') = retimeOut c (if p then a else b) := by
  rw [ha, hb, apply_ite (retimeOut c)]

variable {go : State → Out}

theorem IgnoresTime.needOperand (hgo : IgnoresTime c go) (n : Len) : IgnoresTime c (·.needOperand n go) :=
  fun s => ite_retime rfl (hgo s)

theorem IgnoresTime.needConnected (hgo : IgnoresTime c go) : IgnoresTime c (·.needConnected go) :=
  fun s => ite_retime (p := s.phase = .connected) (hgo s) rfl

theorem IgnoresTime.needBlock (hgo : IgnoresTime c go) (n : Len) : IgnoresTime c (·.needBlock n go) :=
  fun s => ite_retime (p := s.cfg.maxBlock < n.toNat) rfl (hgo s)

theorem IgnoresTime.nextAttempt (hgo : IgnoresTime c go) : IgnoresTime c (·.nextAttempt go) :=
  fun s => ite_retime (p := s.tries < s.cfg.maxTries) (hgo (s.setTries (s.tries + 1))) rfl

theorem IgnoresTime.afterWrite (hgo : IgnoresTime c go) (len : Nat) : IgnoresTime c (·.afterWrite len go) := by
  refine fun s => orFault_retime (s.txAnswer_retime c len) fun ⟨ans, u⟩ => ?_
  cases ans with
  | err x => rfl
  | count k => exact ite_retime (p := k < len) rfl (hgo u)

theorem IgnoresTime.afterAck (hgo : IgnoresTime c go) (kind : AckKind) : IgnoresTime c (·.afterAck kind go) :=
  IgnoresTime.afterWrite (fun u => hgo (u.inc (sentCounter kind))) ackLen

theorem callAck_ignoresTime (i : Instr) (k : Point) (kind : AckKind) (seq : Byte) :
    IgnoresTime c fun s => orFault (s.callAck i k kind seq) .next :=
  fun s => orFault_retime (s.callAck_retime c i k kind seq) fun _ => rfl

theorem sendAttempt_ignoresTime (i : Instr) : IgnoresTime c (sendAttempt i) :=
  fun s => orFault_retime (s.callFrameWrite_retime c i) fun _ => rfl

theorem recvAttempt_ignoresTime (i : Instr) : IgnoresTime c (recvAttempt i) := fun _ => rfl

theorem runLocate_ignoresTime {k : Point} (hk : readsTime k = false) {go : LocateResult → State → Out}
    (hgo : ∀ r, IgnoresTime c (go r)) (i : Instr) (max : Len) (limit : Config → Time) :
    IgnoresTime c fun s => s.runLocate i max (limit s.cfg) k go := by
  refine fun s => orFault_retime (locateStep_retime c s hk i max (limit s.cfg)) fun r => ?_
  cases r with
  | waits u => rfl
  | returns r u => exact hgo r u

/-- A command's meaning ignores the time when it does from acceptance and after each primitive but `Now()`. -/
theorem running_retime {i : Instr} {start : State → Out} {resume : Point → State → Out}
    (hs : ∀ k, s.ustate = .busy i k → readsTime k = false) (hstart : IgnoresTime c start)
    (hresume : ∀ k, readsTime k = false → IgnoresTime c (resume k)) :
    (s.retime c).running i start resume = retimeOut c (s.running i start resume) := by
  rcases hu : s.ustate with _ | ⟨j, k⟩
  · have hu' : (s.retime c).ustate = .idle := hu
    rw [State.running_idle hu, State.running_idle hu']
    exact hstart (s.setRspPending false)
  · have hu' : (s.retime c).ustate = .busy j k := hu
    by_cases hj : j = i
    · subst hj
      rw [State.running_busy hu, State.running_busy hu']
      exact hresume k (hs k hu) s
    · rw [State.running_other hu hj, State.running_other hu' hj]
      rfl

/-- So does the meaning of a command that uses no primitive, when it does from acceptance. -/
theorem running_retime_atOnce {i : Instr} {start : State → Out}
    (hs : ∀ k, s.ustate = .busy i k → readsTime k = false) (hstart : IgnoresTime c start) :
    (s.retime c).running i start (fun _ _ => .fault .strayPoint) =
      retimeOut c (s.running i start fun _ _ => .fault .strayPoint) :=
  running_retime hs hstart fun _ _ _ => rfl

end

/-! ## Every command -/

section
variable {c : Clock} {s : State}

theorem csComputeStart_ignoresTime (a b : Byte) (n : Len) (d : List Byte) : IgnoresTime c (csComputeStart a b n d) :=
  IgnoresTime.needOperand (fun _ => rfl) n

theorem csVerifyStart_ignoresTime (n : Len) (d : List Byte) : IgnoresTime c (csVerifyStart n d) :=
  IgnoresTime.needOperand
    (fun s => orFault_retime (s.loadRxf_retime c n d) fun u => orFault_retime (u.verify_retime c n.toNat) fun _ => rfl)
    n

theorem encodeStart_ignoresTime (a : Byte) (n : Len) (d : List Byte) : IgnoresTime c (encodeStart a n d) := by
  refine IgnoresTime.needOperand (fun s => orFault_retime (s.encode_retime c d a) fun r => ?_) n
  cases r with
  | none => rfl
  | some u =>
    dsimp only [Option.map]
    rw [State.memReadAll_retime]
    exact orFault_retime_same fun _ => rfl

theorem decodeStart_ignoresTime (n : Len) (d : List Byte) (cap : Len) : IgnoresTime c (decodeStart n d cap) := by
  refine IgnoresTime.needOperand (fun s => ?_) n
  split
  · rfl
  · exact orFault_retime (s.loadRxf_retime c n d) fun _ => orFault_retime_same fun _ => rfl

theorem locateReturn_ignoresTime (r : LocateResult) : IgnoresTime c (locateReturn r) := by
  intro s
  cases r with
  | frame len => exact orFault_retime_same fun _ => rfl
  | noFrame => rfl
  | transportErr x => rfl

theorem setDeadlineResume_ignoresTime (t : Time) (k : Point) (hk : readsTime k = false) :
    IgnoresTime c (setDeadlineResume t k) := by
  intro s
  unfold setDeadlineResume
  split
  · cases hk
  · rfl

theorem isElapsedResume_ignoresTime (k : Point) (hk : readsTime k = false) : IgnoresTime c (isElapsedResume k) := by
  intro s
  unfold isElapsedResume
  split
  · cases hk
  · rfl

theorem connectStart_ignoresTime (a : Byte) : IgnoresTime c (connectStart a) :=
  fun s => ite_retime (p := s.phase = .connected) rfl rfl

theorem connectResume_ignoresTime (a : Byte) (k : Point) (hk : readsTime k = false) :
    IgnoresTime c (connectResume a k) := by
  intro s
  unfold connectResume
  split
  · rw [State.ctrlAnswer_retime]
    obtain ⟨ans, u⟩ := s.ctrlAnswer
    cases ans <;> rfl
  · cases hk
  · rfl

theorem disconnectResume_ignoresTime (k : Point) (hk : readsTime k = false) : IgnoresTime c (disconnectResume k) := by
  intro s
  unfold disconnectResume
  split
  · rw [State.ctrlAnswer_retime]; rfl
  · cases hk
  · rfl

theorem IgnoresTime.sendChecked {go : State → Out} (hgo : IgnoresTime c go) (n : Len) (d : List Byte) :
    IgnoresTime c (sendChecked n d · go) := by
  refine .needOperand (.needConnected (.needBlock (fun s =>
    orFault_retime (s.encode_retime c d (zext8 s.txSeq)) fun r => ?_) n)) n
  cases r with
  | none => rfl
  | some u => exact hgo u

theorem sendBasicResume_ignoresTime (k : Point) (hk : readsTime k = false) : IgnoresTime c (sendBasicResume k) := by
  intro s
  unfold sendBasicResume
  split
  · exact IgnoresTime.afterWrite (fun _ => rfl) s.txfLen.toNat s
  · rfl

theorem sendResponse_ignoresTime (i : Instr) (len : Nat) : IgnoresTime c (sendResponse i len) := by
  refine fun s => orFault_retime_same fun ⟨st, aseq⟩ => ?_
  exact ite_retime (p := positiveAck s.cfg st ∧ aseq = zext8 s.txSeq) rfl
    ((sendAttempt_ignoresTime i).nextAttempt (s.inc (rcvdCounter (positiveAck s.cfg st))))

theorem sendReturn_ignoresTime (i : Instr) (r : LocateResult) : IgnoresTime c (sendReturn i r) := by
  have hnext := (sendAttempt_ignoresTime (c := c) i).nextAttempt
  intro s
  cases r with
  | transportErr x => rfl
  | noFrame => exact hnext (s.inc .timeouts)
  | frame len =>
    refine orFault_retime (s.verify_retime c len) fun ⟨good, u⟩ => ?_
    cases good with
    | false => exact hnext (u.inc .badRcvd)
    | true => exact sendResponse_ignoresTime i len u

theorem sendReliableResume_ignoresTime (i : Instr) (k : Point) (hk : readsTime k = false) :
    IgnoresTime c (sendReliableResume i k) := by
  intro s
  unfold sendReliableResume
  split
  · exact IgnoresTime.afterWrite (fun _ => rfl) s.txfLen.toNat s
  · exact runLocate_ignoresTime hk (sendReturn_ignoresTime i) i _ (2 * ·.txWait) s

theorem recvBasicReturn_ignoresTime (cap : Len) (r : LocateResult) : IgnoresTime c (recvBasicReturn cap r) := by
  intro s
  cases r with
  | transportErr x => rfl
  | noFrame => exact (recvAttempt_ignoresTime _).nextAttempt (s.inc .timeouts)
  | frame len =>
    refine orFault_retime (s.verify_retime c len) fun ⟨good, u⟩ => ?_
    cases good with
    | false => rfl
    | true => exact orFault_retime_same fun _ => rfl

theorem recvGood_ignoresTime (cap : Len) (len : Nat) : IgnoresTime c (recvGood cap len) := by
  refine fun s => orFault_retime_same fun ⟨p, seq⟩ => ?_
  exact ite_retime (p := seq = zext8 s.expected) (callAck_ignoresTime _ _ _ _ s)
    (ite_retime (p := seq = zext8 s.rxLast) (callAck_ignoresTime _ _ _ _ s) (callAck_ignoresTime _ _ _ _ s))

theorem recvReliableReturn_ignoresTime (cap : Len) (r : LocateResult) : IgnoresTime c (recvReliableReturn cap r) := by
  intro s
  cases r with
  | transportErr x => rfl
  | noFrame => exact (recvAttempt_ignoresTime _).nextAttempt (s.inc .timeouts)
  | frame len =>
    refine orFault_retime (s.verify_retime c len) fun ⟨good, u⟩ => ?_
    cases good with
    | false => exact orFault_retime_same fun _ => callAck_ignoresTime _ _ _ _ (u.inc .badRcvd)
    | true => exact recvGood_ignoresTime cap len (u.inc .goodRcvd)

theorem recvReliableResume_ignoresTime (cap : Len) (k : Point) (hk : readsTime k = false) :
    IgnoresTime c (recvReliableResume cap k) := by
  intro s
  unfold recvReliableResume
  split
  · exact IgnoresTime.afterAck (fun _ => rfl) .pos s
  · exact (recvAttempt_ignoresTime _).nextAttempt.afterAck .neg s
  · exact runLocate_ignoresTime hk (recvReliableReturn_ignoresTime cap) _ _ (·.rxWait) s

theorem sendAckResume_ignoresTime (kind : AckKind) (k : Point) (hk : readsTime k = false) :
    IgnoresTime c (sendAckResume kind k) := by
  intro s
  unfold sendAckResume
  split
  · exact IgnoresTime.afterAck (fun _ => rfl) kind s
  · rfl

/-- R10, R164: a step of a command that does not wait on `Now()`. -/
theorem exec_retime {i : Instr} (hs : ∀ k, s.ustate = .busy i k → readsTime k = false) :
    exec i (s.retime c) = retimeOut c (exec i s) := by
  cases i with
  | csCompute a b n d => exact running_retime_atOnce hs (csComputeStart_ignoresTime a b n d)
  | csVerify n d => exact running_retime_atOnce hs (csVerifyStart_ignoresTime n d)
  | encode a n d => exact running_retime_atOnce hs (encodeStart_ignoresTime a n d)
  | decode n d cap => exact running_retime_atOnce hs (decodeStart_ignoresTime n d cap)
  | locate cap t =>
    exact running_retime hs (IgnoresTime.needConnected fun _ => rfl) fun _ hk =>
      runLocate_ignoresTime hk locateReturn_ignoresTime _ cap fun _ => t
  | setDeadline t => exact running_retime hs (fun _ => rfl) (setDeadlineResume_ignoresTime t)
  | isElapsed => exact running_retime hs (fun _ => rfl) isElapsedResume_ignoresTime
  | connect a => exact running_retime hs (connectStart_ignoresTime a) (connectResume_ignoresTime a)
  | disconnect =>
    exact running_retime hs (IgnoresTime.needConnected fun _ => rfl) disconnectResume_ignoresTime
  | sendBasic n d =>
    exact running_retime hs ((sendAttempt_ignoresTime _).sendChecked n d) sendBasicResume_ignoresTime
  | sendReliable n d =>
    exact running_retime hs
      (IgnoresTime.sendChecked (fun u => sendAttempt_ignoresTime _ (u.setTries 1)) n d)
      (sendReliableResume_ignoresTime _)
  | recvBasic cap =>
    exact running_retime hs (IgnoresTime.needConnected fun _ => rfl) fun _ hk =>
      runLocate_ignoresTime hk (recvBasicReturn_ignoresTime cap) _ _ (·.rxWait)
  | recvReliable cap =>
    exact running_retime hs (IgnoresTime.needConnected fun _ => rfl) (recvReliableResume_ignoresTime cap)
  | sendAck a kind =>
    exact running_retime hs (callAck_ignoresTime _ _ _ _).needConnected (sendAckResume_ignoresTime kind)
  | getOptBlock => exact running_retime_atOnce hs (fun _ => rfl)

end

end Sys2Proof.Machine
end

section
open Sys2Proof Sys2Proof.Machine

/-- Settles O22: each operation of a command but `Now()` ignores the time. -/
theorem timeIsReadOnlyByNow : Obligations.TimeIsReadOnlyByNow := by
  unfold Obligations.TimeIsReadOnlyByNow
  intro s i dl now ticks hs
  exact exec_retime (c := ⟨dl, now, ticks⟩) hs

end

section
/-! SUPPORT. The invariant of the machine (spec/10_state.md R22 to R35): every answer of a step from a safe state is
safe. One lemma for each operation that can end a step or go on, then one for each command. -/

namespace Sys2Proof.Machine

/-! ## Safe answers -/

/-- A next state that meets the invariant, or a stop that a safe state may end in. -/
def safeOut : Out → Prop
  | .next t => t.Inv
  | .fault f => allowedStop (.fault f) = true
  | .refused r => allowedStop (.refused r) = true

theorem safeOut.allowed {o : Out} (h : safeOut o) : allowedStop o = true := by
  cases o with
  | next t => rfl
  | fault f => exact h
  | refused r => exact h

/-! ## A running command -/

/-- What holds of command `i` from its checks to its response, wherever it waits. -/
structure State.Runs (s : State) (i : Instr) : Prop where
  regs : s.RegsOk
  wf : i.wf = true
  taken : s.rspPending = false
  connected : needsConnection i = true → s.phase = .connected
  tries : retries i = true → 1 ≤ s.tries ∧ s.tries ≤ s.cfg.maxTries

/-- In BUSY the invariant is that the command runs, and what its position needs. -/
theorem State.inv_busy_iff {s : State} {i : Instr} {k : Point} (hu : s.ustate = .busy i k) :
    s.Inv ↔ s.Runs i ∧ waitsAt i k = true ∧ s.locateOk i k ∧ s.commandOk i k := by
  have hctl : s.controlOk ↔ i.wf = true ∧ waitsAt i k = true ∧ s.rspPending = false ∧
      (needsConnection i = true → s.phase = .connected) ∧
      (retries i = true → 1 ≤ s.tries ∧ s.tries ≤ s.cfg.maxTries) ∧ s.locateOk i k ∧ s.commandOk i k := by
    rw [State.controlOk, hu]
  constructor
  · rintro ⟨hregs, hcontrol⟩
    obtain ⟨hwf, hat, htaken, hconn, htries, hloc, hcmd⟩ := hctl.1 hcontrol
    exact ⟨⟨hregs, hwf, htaken, hconn, htries⟩, hat, hloc, hcmd⟩
  · rintro ⟨⟨hregs, hwf, htaken, hconn, htries⟩, hat, hloc, hcmd⟩
    exact ⟨hregs, hctl.2 ⟨hwf, hat, htaken, hconn, htries, hloc, hcmd⟩⟩

section
variable {s t : State} {i : Instr}

/-- Writes that keep the registers in their ranges, and the phase, the attempt counter and the response as they are. -/
theorem State.Runs.keep (h : s.Runs i) (hregs : t.RegsOk) (hpending : t.rspPending = s.rspPending := by rfl)
    (hphase : t.phase = s.phase := by rfl) (htries : t.tries = s.tries := by rfl) (hcfg : t.cfg = s.cfg := by rfl) :
    t.Runs i :=
  ⟨hregs, h.wf, hpending ▸ h.taken, hphase ▸ h.connected, by rw [htries, hcfg]; exact h.tries⟩

theorem State.Runs.inc (h : s.Runs i) (c : Counter) : (s.inc c).Runs i := h.keep (h.regs.inc c)

theorem State.Runs.setCsAcc (h : s.Runs i) {x : Byte} (hx : x.toNat < 250) : (s.setCsAcc x).Runs i :=
  h.keep (h.regs.setCsAcc hx)

theorem State.Runs.setEnv (h : s.Runs i) {e : Env} (he : s.env.now ≤ e.now) : (s.setEnv e).Runs i :=
  h.keep (h.regs.setEnv he)

/-- A command that waits for the answer of a request is safe when its position is. -/
theorem State.Runs.issue (h : s.Runs i) {k : Point} (q : Request) (hk : waitsAt i k = true) (hloc : s.locateOk i k)
    (hcmd : s.commandOk i k) : safeOut (.next (s.issue i k q)) :=
  (State.inv_busy_iff (s := s.issue i k q) rfl).2 ⟨h.keep (h.regs.issue i k q), hk, hloc, hcmd⟩

end

/-! ## Data operands -/

/-- R84: where the length is not refused, the data operand has exactly its bytes. -/
theorem dataWf_length {n : Len} {d : List Byte} (h : dataWf n d = true) (hn : n.toNat ≤ 257) :
    n.toNat = d.length := by
  simp only [dataWf, Bool.and_eq_true, Bool.or_eq_true, decide_eq_true_eq] at h
  omega

theorem dataField_wf {c : Command} {d : List Byte} (h : dataField c = .ok d) : dataWf c.n d = true := by
  unfold dataField at h
  split at h
  · cases h
  · rename_i hshort
    cases h
    simp only [dataWf, Bool.and_eq_true, Bool.or_eq_true, decide_eq_true_eq, List.length_take]
    omega

/-- R87: the decoder gives a data operand to the commands it decodes from the data field. -/
theorem dataField_map_wf {c : Command} {f : List Byte → Instr} {i : Instr} (h : (dataField c).map f = .ok i)
    (hf : ∀ d, dataWf c.n d = true → (f d).wf = true) : i.wf = true := by
  cases hd : dataField c with
  | error e => rw [hd] at h; cases h
  | ok d =>
    rw [hd] at h
    cases h
    exact hf d (dataField_wf hd)

/-- R84, R87: what the decoder accepts is well-formed. -/
theorem decodeCommand_wf {c : Command} {i : Instr} (h : decodeCommand c = .ok i) : i.wf = true := by
  unfold decodeCommand at h
  split at h
  case h_1 | h_2 | h_3 | h_4 | h_10 | h_11 => exact dataField_map_wf h fun _ hd => hd
  all_goals cases h <;> rfl

theorem truncated_length_le (p : List Byte) (cap : Len) : (truncated p cap).length ≤ cap.toNat := by
  simp [truncated]

/-- R85: the length field of what a capacity has cut. -/
theorem lenField_truncated (p : List Byte) (cap : Len) :
    (lenField (truncated p cap)).toNat = (truncated p cap).length :=
  lenField_toNat (by have := truncated_length_le p cap; have := cap.isLt; omega)

/-! ## Checks -/

section
variable {s : State} {go : State → Out}

theorem State.RegsOk.needOperand (h : s.RegsOk) {n : Len} (hgo : n.toNat ≤ 257 → safeOut (go s)) :
    safeOut (s.needOperand n go) := by
  rcases Nat.lt_or_ge 257 n.toNat with hn | hn
  · rw [State.needOperand_bad hn]; exact h.raise _
  · rw [State.needOperand_ok hn]; exact hgo hn

theorem State.RegsOk.needConnected (h : s.RegsOk) (hgo : s.phase = .connected → safeOut (go s)) :
    safeOut (s.needConnected go) := by
  cases hp : s.phase with
  | disconnected => rw [State.needConnected_bad hp]; exact h.raise _
  | connected => rw [State.needConnected_ok hp]; exact hgo hp

theorem State.RegsOk.needBlock (h : s.RegsOk) {n : Len} (hgo : n.toNat ≤ s.cfg.maxBlock → safeOut (go s)) :
    safeOut (s.needBlock n go) := by
  rcases Nat.lt_or_ge s.cfg.maxBlock n.toNat with hn | hn
  · rw [State.needBlock_bad hn]; exact h.raise _
  · rw [State.needBlock_ok hn]; exact hgo hn

/-! ## Writes and attempts -/

/-- A write whose answer keeps the transport's duty goes on, or ends the command; one that breaks it is the stop R86
names. -/
theorem State.RegsOk.afterWrite (h : s.RegsOk) {len : Nat}
    (hgo : ∀ e, s.env.now ≤ e.now → safeOut (go (s.setEnv e))) :
    safeOut (s.afterWrite len go) := by
  rcases s.afterWrite_cases len go with ⟨e, -, hnow, heq⟩ | ⟨k, e, -, -, hnow, heq⟩ | ⟨x, e, -, hnow, heq⟩ |
    ⟨k, -, heq⟩ <;> rw [heq]
  · exact hgo e hnow.ge
  · exact (h.setEnv hnow.ge).raise _
  · exact (h.setEnv hnow.ge).raiseTransport x
  · rfl

theorem State.RegsOk.afterAck (h : s.RegsOk) {kind : AckKind}
    (hgo : ∀ e, s.env.now ≤ e.now → safeOut (go ((s.setEnv e).inc (sentCounter kind)))) :
    safeOut (s.afterAck kind go) :=
  h.afterWrite hgo

/-- The next attempt is counted, within `MAX_TRIES`. -/
theorem State.Runs.nextAttempt {i : Instr} (h : s.Runs i)
    (hgo : (s.setTries (s.tries + 1)).Runs i → safeOut (go (s.setTries (s.tries + 1)))) :
    safeOut (s.nextAttempt go) := by
  rcases Nat.lt_or_ge s.tries s.cfg.maxTries with hlt | hge
  · rw [State.nextAttempt_again hlt]
    exact hgo ⟨h.regs.setTries _, h.wf, h.taken, h.connected, fun _ => ⟨Nat.le_add_left 1 _, hlt⟩⟩
  · rw [State.nextAttempt_last hge]
    exact h.regs.raise _

/-- The first attempt is counted. -/
theorem State.RegsOk.firstAttempt {i : Instr} (h : s.RegsOk) (hwf : i.wf = true) (htaken : s.rspPending = false)
    (hphase : s.phase = .connected) : (s.setTries 1).Runs i :=
  ⟨h.setTries 1, hwf, htaken, fun _ => hphase, fun _ => ⟨Nat.le_refl 1, s.cfg.valid_iff.2.1⟩⟩

/-- An acknowledgement is built and offered to the transport. -/
theorem State.Runs.callAck {i : Instr} (h : s.Runs i) {k : Point} (kind : AckKind) (seq : Byte)
    (hk : waitsAt i k = true) (hloc : (s.ackBuilt kind seq).locateOk i k) (hcmd : s.commandOk i k) :
    safeOut (orFault (s.callAck i k kind seq) .next) := by
  rw [State.callAck_ok]
  exact State.Runs.issue (s := s.ackBuilt kind seq) (h.keep (h.regs.ackBuilt kind seq)) _ hk hloc hcmd

end

/-! ## Locate -/

/-- The commands that run `Locate` may wait at each of its positions. -/
theorem waitsAt_inLocate {i : Instr} {k : Point} (hi : usesLocate i = true) (hk : inLocate k = true) :
    waitsAt i k = true := by
  cases i <;> cases hi
  case sendReliable n d => simp [waitsAt, hk]
  case recvReliable c => cases k <;> cases hk <;> rfl
  all_goals exact hk

/-- What a command has established does not turn on anything `Locate` writes, nor on where in `Locate` it waits. -/
theorem State.commandOk.locate {s t : State} {i : Instr} {k k' : Point} (h : s.commandOk i k) (hf : s.locateFrame t)
    (hi : usesLocate i = true) (hk : inLocate k' = true) : t.commandOk i k' := by
  cases i <;> cases hi
  case sendReliable n d =>
    simp only [State.commandOk, hf.cfg, hf.txf, hf.txfLen, hf.txSeq]
    exact h
  case recvReliable c =>
    refine ⟨by rw [hf.expected, hf.rxLast]; exact h.1, ?_⟩
    rintro seq p rfl
    cases hk
  all_goals trivial

/-- A frame that `Locate` returns stands in `rxf`. -/
def LocateResult.stands (s : State) : LocateResult → Prop
  | .frame len => ∃ f : List Byte, f.length = len ∧ len ≤ 257 ∧ s.rxf.holds 0 f = true
  | .noFrame => True
  | .transportErr _ => True

/-- `Locate` run on by command `i` from its point `k`: it waits at another, or the command goes on with its result. -/
theorem State.Runs.runLocate {s : State} {i : Instr} {k : Point} {limit : Time} {go : LocateResult → State → Out}
    (h : s.Runs i) (hi : usesLocate i = true) (hk : inLocate k = true) (hloc : s.locateOk i k)
    (hcmd : s.commandOk i k)
    (hgo : ∀ r t, t.Runs i → t.commandOk i .locateNow → r.stands t → safeOut (go r t)) :
    safeOut (s.runLocate i (maxSizeOf i) limit k go) := by
  obtain ⟨r, hr, hok⟩ := locateStep_ok limit hk hloc h.regs.rxfWf
  rw [State.runLocate, hr, orFault_ok]
  cases r with
  | waits t =>
    obtain ⟨k', hu, hk', hloc', hf, hwf, hlen⟩ := hok
    have hregs := h.regs.located hf hwf (hlen ▸ h.regs.rxfLen)
    exact (State.inv_busy_iff hu).2
      ⟨h.keep hregs hf.rspPending hf.phase hf.tries hf.cfg, waitsAt_inLocate hi hk', hloc', hcmd.locate hf hi hk'⟩
  | returns r t =>
    obtain ⟨hf, hwf, hres⟩ := hok
    have hruns (hlen : t.rxfLen.toNat ≤ 257) : t.Runs i :=
      h.keep (h.regs.located hf hwf hlen) hf.rspPending hf.phase hf.tries hf.cfg
    have hcmd' : t.commandOk i .locateNow := hcmd.locate hf hi rfl
    cases r with
    | frame len =>
      obtain ⟨-, h257, -, hlen, hfill, -, -⟩ := hres
      obtain ⟨f, hfl, hholds⟩ := Memory.filled_holds (i := 0) (k := len) (by simpa using hfill)
      exact hgo _ t (hruns (hlen ▸ h257)) hcmd' ⟨f, hfl, h257, hholds⟩
    | noFrame => exact hgo _ t (hruns (hres ▸ h.regs.rxfLen)) hcmd' trivial
    | transportErr x => exact hgo _ t (hruns (hres ▸ h.regs.rxfLen)) hcmd' trivial

/-- `Verify` of a frame that stands in `rxf` leaves a residue in range. -/
theorem State.RegsOk.verify {s : State} {f : List Byte} (h : s.RegsOk) (hf : s.rxf.holds 0 f = true)
    (hl : f.length ≤ 257) :
    ∃ acc : Byte, acc.toNat < 250 ∧ s.verify f.length = .ok (goodFrame f, s.setCsAcc acc) := by
  rw [State.verify_ok hf hl]
  by_cases h4 : f.length < 4
  · exact ⟨s.csAcc, h.csAcc, by rw [if_pos h4]; rfl⟩
  · exact ⟨csFold 0 (coveredBytes f), csFold_lt (by decide) _, by rw [if_neg h4]⟩

/-- R111: a good frame has at least 4 bytes. -/
theorem goodFrame_length {f : List Byte} (h : goodFrame f = true) : 4 ≤ f.length := by
  simp only [goodFrame, Bool.and_eq_true, decide_eq_true_eq] at h
  exact h.1

/-! ## The commands that use no retry loop -/

section
variable {s : State}

theorem csComputeStart_safe (h : s.RegsOk) (a b : Byte) (n : Len) (d : List Byte) :
    safeOut (csComputeStart a b n d s) :=
  h.needOperand fun _ => (h.setCsAcc (checksumOf_lt b a d)).respond rfl

theorem csVerifyStart_safe (h : s.RegsOk) {n : Len} {d : List Byte} (hd : dataWf n d = true) :
    safeOut (csVerifyStart n d s) := by
  refine h.needOperand fun hn => ?_
  have hlen := dataWf_length hd hn
  have hloaded := h.loaded (hlen ▸ hn) hn
  obtain ⟨acc, hacc, hver⟩ := hloaded.verify (f := d) (Memory.holds_putAll _ _ _) (hlen ▸ hn)
  rw [State.loadRxf_ok _ _ (hlen ▸ hn), orFault_ok, hlen, hver]
  exact (hloaded.setCsAcc hacc).respond rfl

theorem encodeStart_safe (h : s.RegsOk) (a : Byte) (n : Len) (d : List Byte) : safeOut (encodeStart a n d s) := by
  refine h.needOperand fun _ => ?_
  rcases Nat.lt_or_ge 253 d.length with hd | hd
  · rw [State.encode_tooLarge _ _ hd]
    exact h.raise _
  · have hlen : (s.encoded d a).txfLen.toNat = (frameBytes s.cfg.marker a d).length := by
      rw [frameBytes_length]; exact lenOf_frame hd
    have hread := State.memReadAll_ok (s := s.encoded d a) (b := .txf) (i := 0)
      (by rw [frameBytes_length]; simp only [BufName.size]; omega) (s.encoded_holds d a)
    rw [State.encode_ok _ _ hd, orFault_ok]
    dsimp only
    rw [hlen, hread]
    exact (h.encoded a hd).respond hlen

theorem decodeStart_safe (h : s.RegsOk) {n : Len} {d : List Byte} (hd : dataWf n d = true) (c : Len) :
    safeOut (decodeStart n d c s) := by
  refine h.needOperand fun hn => ?_
  have hlen := dataWf_length hd hn
  split
  · exact h.raise _
  · rename_i h4
    rw [State.loadRxf_ok _ _ (hlen ▸ hn), orFault_ok, hlen,
      State.decode_ok (f := d) (Memory.holds_putAll _ _ _) (by omega) (by omega)]
    exact (h.loaded (hlen ▸ hn) hn).respond (lenField_truncated _ _)

theorem locateReturn_safe (h : s.RegsOk) {r : LocateResult} (hr : r.stands s) : safeOut (locateReturn r s) := by
  cases r with
  | transportErr x => exact h.raiseTransport x
  | noFrame => exact h.raise _
  | frame len =>
    obtain ⟨f, rfl, hl, hf⟩ := hr
    rw [locateReturn, State.memReadAll_ok (b := .rxf) (i := 0) (by simpa [BufName.size] using hl) hf]
    exact h.respond (lenField_toNat (by omega))

theorem setDeadlineResume_safe (h : s.RegsOk) {t : Time} {k : Point} (hk : waitsAt (.setDeadline t) k = true) :
    safeOut (setDeadlineResume t k s) := by
  obtain rfl : k = .deadlineNow := by simpa [waitsAt] using hk
  exact (h.readNow.setDl _).respond rfl

theorem isElapsedResume_safe (h : s.RegsOk) {k : Point} (hk : waitsAt .isElapsed k = true) :
    safeOut (isElapsedResume k s) := by
  obtain rfl : k = .elapsedNow := by simpa [waitsAt] using hk
  exact h.readNow.respond rfl

/-! ## CONNECT and DISCONNECT -/

/-- A start time that is not in the future. -/
theorem State.RegsOk.setConnStart (h : s.RegsOk) {x : Time} (hx : x ≤ s.env.now) : (s.setConnStart x).RegsOk :=
  ⟨h.txfWf, h.rxfWf, h.akfWf, h.txfLen, h.rxfLen, h.csAcc, hx, h.rspLen⟩

theorem connectStart_safe {a : Byte} (h : s.RegsOk) (htaken : s.rspPending = false) : safeOut (connectStart a s) := by
  unfold connectStart
  split
  · exact h.raise _
  · rename_i hphase
    have hdisconnected : s.phase = .disconnected := by
      cases hp : s.phase with
      | disconnected => rfl
      | connected => exact absurd hp hphase
    exact State.Runs.issue (i := .connect a) (k := .xOpen) ⟨h, rfl, htaken, nofun, nofun⟩ _ rfl trivial
      ⟨hdisconnected, nofun⟩

theorem connectResume_safe {a : Byte} {k : Point} (h : s.Runs (.connect a)) (hk : waitsAt (.connect a) k = true)
    (hcmd : s.commandOk (.connect a) k) : safeOut (connectResume a k s) := by
  obtain ⟨hphase, -⟩ := hcmd
  simp only [waitsAt, Bool.or_eq_true, beq_iff_eq] at hk
  rcases hk with rfl | rfl
  · simp only [connectResume, State.ctrlAnswer_eq]
    have hregs := h.regs.ctrlAnswer
    cases s.env.ctrlAnswer.1 with
    | err x => exact hregs.raiseTransport x
    | ok =>
      have hopen := ((hregs.setTxSeq 0).setRxLast 15).setCtr {}
      exact State.Runs.issue (h.keep hopen) _ rfl trivial ⟨hphase, fun _ => ⟨rfl, rfl, rfl⟩⟩
  · have hnow : s.env.readNow.1 ≤ s.env.readNow.2.now := s.env.readNow_frame.2.1.ge
    exact ((h.regs.readNow.setConnStart hnow).setPhase _).respond rfl

theorem disconnectResume_safe {k : Point} (h : s.Runs .disconnect) (hk : waitsAt .disconnect k = true) :
    safeOut (disconnectResume k s) := by
  cases k <;> cases hk
  case xClose => exact State.Runs.issue (h.keep h.regs.ctrlAnswer) _ rfl trivial trivial
  case disconnectNow r => exact (h.regs.readNow.setPhase _).respond (by cases r <;> rfl)

/-! ## The sends -/

/-- The checks and the encoding both sends begin with: past them the frame stands in `txf`. -/
theorem sendChecked_safe {n : Len} {d : List Byte} {go : State → Out} (h : s.RegsOk) (hd : dataWf n d = true)
    (hgo : s.phase = .connected → (s.encoded d (zext8 s.txSeq)).RegsOk →
      (s.encoded d (zext8 s.txSeq)).commandOk (.sendBasic n d) .frameWrite →
        safeOut (go (s.encoded d (zext8 s.txSeq)))) :
    safeOut (sendChecked n d s go) := by
  refine h.needOperand fun hn => h.needConnected fun hphase => h.needBlock fun hblock => ?_
  have hlen := dataWf_length hd hn
  have h253 : d.length ≤ 253 := by have := s.cfg.valid_iff.2.2.1; omega
  rw [State.encode_ok _ _ h253]
  exact hgo hphase (h.encoded _ h253) ⟨hlen, hlen ▸ hblock, lenOf_frame h253, s.encoded_holds _ _⟩

/-- Every attempt of a send offers the frame that stands in `txf`. -/
theorem State.Runs.sendAttempt {i : Instr} {n : Len} {d : List Byte} (h : s.Runs i)
    (hi : i = .sendBasic n d ∨ i = .sendReliable n d) (hcmd : s.commandOk i .frameWrite) :
    safeOut (sendAttempt i s) := by
  obtain ⟨-, hblock, hlen, hholds⟩ : s.commandOk (.sendBasic n d) .frameWrite := by
    rcases hi with rfl | rfl <;> exact hcmd
  have h253 : d.length ≤ 253 := Nat.le_trans hblock s.cfg.valid_iff.2.2.1
  have hat : waitsAt i .frameWrite = true := by rcases hi with rfl | rfl <;> rfl
  rw [Machine.sendAttempt,
    State.callFrameWrite_ok hholds (by rw [frameBytes_length, hlen]) (by rw [frameBytes_length]; omega)]
  exact h.issue _ hat trivial hcmd

theorem sendBasicStart_safe {n : Len} {d : List Byte} (h : s.RegsOk) (hd : dataWf n d = true)
    (htaken : s.rspPending = false) : safeOut (sendBasicStart n d s) :=
  sendChecked_safe h hd fun hphase hregs hcmd =>
    State.Runs.sendAttempt (i := .sendBasic n d) ⟨hregs, hd, htaken, fun _ => hphase, nofun⟩ (.inl rfl) hcmd

theorem sendBasicResume_safe {n : Len} {d : List Byte} {k : Point} (h : s.RegsOk)
    (hk : waitsAt (.sendBasic n d) k = true) : safeOut (sendBasicResume k s) := by
  obtain rfl : k = .frameWrite := by simpa [waitsAt] using hk
  exact h.afterWrite fun e he => (((h.setEnv he).inc _).setTxSeq _).respond rfl

theorem sendReliableStart_safe {n : Len} {d : List Byte} (h : s.RegsOk) (hd : dataWf n d = true)
    (htaken : s.rspPending = false) : safeOut (sendReliableStart n d s) :=
  sendChecked_safe h hd fun hphase hregs hcmd =>
    State.Runs.sendAttempt (i := .sendReliable n d) (hregs.firstAttempt hd htaken hphase) (.inr rfl) hcmd

theorem sendReturn_safe {n : Len} {d : List Byte} {r : LocateResult} (h : s.Runs (.sendReliable n d))
    (hcmd : s.commandOk (.sendReliable n d) .frameWrite) (hr : r.stands s) :
    safeOut (sendReturn (.sendReliable n d) r s) := by
  have hagain : ∀ {u : State}, u.Runs (.sendReliable n d) → u.commandOk (.sendReliable n d) .frameWrite →
      safeOut (u.nextAttempt (sendAttempt (.sendReliable n d))) :=
    fun hu hc => hu.nextAttempt fun hv => hv.sendAttempt (.inr rfl) hc
  cases r with
  | transportErr x => exact h.regs.raiseTransport x
  | noFrame => exact hagain (h.inc _) hcmd
  | frame len =>
    obtain ⟨f, rfl, hl, hf⟩ := hr
    obtain ⟨acc, hacc, hver⟩ := h.regs.verify hf hl
    have hv := h.setCsAcc hacc
    rw [sendReturn, hver, orFault_ok]
    cases hgood : goodFrame f with
    | false => exact hagain (hv.inc _) hcmd
    | true =>
      dsimp only
      rw [sendResponse, State.decode_ok (s := s.setCsAcc acc) hf (goodFrame_length hgood) hl, orFault_ok]
      dsimp only
      split
      · exact ((hv.inc _).regs.setTxSeq _).respond rfl
      · exact hagain (hv.inc _) hcmd

theorem sendReliableResume_safe {n : Len} {d : List Byte} {k : Point} (h : s.Runs (.sendReliable n d))
    (hk : waitsAt (.sendReliable n d) k = true) (hloc : s.locateOk (.sendReliable n d) k)
    (hcmd : s.commandOk (.sendReliable n d) k) : safeOut (sendReliableResume (.sendReliable n d) k s) := by
  unfold sendReliableResume
  split
  · exact h.regs.afterWrite fun e he => ((h.setEnv he).inc _).issue _ rfl trivial hcmd
  · rename_i hne
    have hin : inLocate k = true := by simpa [waitsAt, show k ≠ .frameWrite from hne] using hk
    exact h.runLocate rfl hin hloc hcmd fun r t ht hc hr => sendReturn_safe ht hc hr

/-! ## The receives -/

theorem State.Runs.recvAttempt {i : Instr} (h : s.Runs i) (hi : usesLocate i = true)
    (hcmd : s.commandOk i .locateNow) : safeOut (recvAttempt i s) :=
  h.issue _ (waitsAt_inLocate hi rfl) trivial hcmd

theorem recvBasicStart_safe {c : Len} (h : s.RegsOk) (htaken : s.rspPending = false) : safeOut (recvBasicStart c s) :=
  h.needConnected fun hphase =>
    State.Runs.recvAttempt (i := .recvBasic c) (h.firstAttempt rfl htaken hphase) rfl trivial

theorem recvBasicReturn_safe {c : Len} {r : LocateResult} (h : s.Runs (.recvBasic c)) (hr : r.stands s) :
    safeOut (recvBasicReturn c r s) := by
  cases r with
  | transportErr x => exact h.regs.raiseTransport x
  | noFrame => exact (h.inc .timeouts).nextAttempt fun hv => hv.recvAttempt rfl trivial
  | frame len =>
    obtain ⟨f, rfl, hl, hf⟩ := hr
    obtain ⟨acc, hacc, hver⟩ := h.regs.verify hf hl
    have hv := h.setCsAcc hacc
    rw [recvBasicReturn, hver, orFault_ok]
    cases hgood : goodFrame f with
    | false => exact (hv.inc _).regs.respond (lenField_truncated _ _)
    | true =>
      dsimp only
      rw [State.decode_ok (s := (s.setCsAcc acc).inc .goodRcvd) hf (goodFrame_length hgood) hl, orFault_ok]
      exact (hv.inc _).regs.respond (lenField_truncated _ _)

theorem recvReliableStart_safe {c : Len} (h : s.RegsOk) (htaken : s.rspPending = false) :
    safeOut (recvReliableStart c s) :=
  h.needConnected fun hphase =>
    State.Runs.recvAttempt (i := .recvReliable c) ((h.setExpected _).firstAttempt rfl htaken hphase) rfl
      ⟨rfl, nofun⟩

theorem refuseFrame_safe {c : Len} (h : s.Runs (.recvReliable c)) (hexp : s.expected = nextSeq s.rxLast) (seq : Byte) :
    safeOut (refuseFrame c seq s) :=
  h.callAck _ _ rfl trivial ⟨hexp, nofun⟩

theorem recvGood_safe {c : Len} {f : List Byte} (h : s.Runs (.recvReliable c)) (hexp : s.expected = nextSeq s.rxLast)
    (hf : s.rxf.holds 0 f = true) (h4 : 4 ≤ f.length) (hl : f.length ≤ 257) : safeOut (recvGood c f.length s) := by
  rw [recvGood, State.decode_ok hf h4 hl, orFault_ok]
  dsimp only
  split
  · rename_i hseq
    refine h.callAck _ _ rfl trivial ⟨hexp, ?_⟩
    rintro seq p ⟨⟩
    exact ⟨hseq, truncated_length_le _ _⟩
  · split <;> exact refuseFrame_safe h hexp _

theorem recvReliableReturn_safe {c : Len} {r : LocateResult} (h : s.Runs (.recvReliable c))
    (hexp : s.expected = nextSeq s.rxLast) (hr : r.stands s) : safeOut (recvReliableReturn c r s) := by
  cases r with
  | transportErr x => exact h.regs.raiseTransport x
  | noFrame => exact (h.inc .timeouts).nextAttempt fun hv => hv.recvAttempt rfl ⟨hexp, nofun⟩
  | frame len =>
    obtain ⟨f, rfl, hl, hf⟩ := hr
    obtain ⟨acc, hacc, hver⟩ := h.regs.verify hf hl
    have hv := h.setCsAcc hacc
    rw [recvReliableReturn, hver, orFault_ok]
    cases hgood : goodFrame f with
    | false =>
      have hecho : ∃ e, echoSeq f.length ((s.setCsAcc acc).inc .badRcvd) = .ok e := by
        unfold echoSeq
        split
        · rename_i h3
          have h2 := (Memory.holds_iff _ _ _).1 hf 2 h3
          exact ⟨_, State.memRead_ok (b := .rxf) (by simp [BufName.size]) h2⟩
        · exact ⟨0, rfl⟩
      obtain ⟨e, he⟩ := hecho
      dsimp only
      rw [he]
      exact refuseFrame_safe (hv.inc _) hexp e
    | true => exact recvGood_safe (hv.inc _) hexp hf (goodFrame_length hgood) hl

theorem recvReliableResume_safe {c : Len} {k : Point} (h : s.Runs (.recvReliable c))
    (hk : waitsAt (.recvReliable c) k = true) (hloc : s.locateOk (.recvReliable c) k)
    (hcmd : s.commandOk (.recvReliable c) k) : safeOut (recvReliableResume c k s) := by
  obtain ⟨hexp, haccept⟩ := hcmd
  unfold recvReliableResume
  split
  · rename_i seq p
    have hlen : p.length ≤ c.toNat := (haccept seq p rfl).2
    exact h.regs.afterAck fun e he =>
      (((h.regs.setEnv he).inc _).setRxLast _).respond (lenField_toNat (by have := c.isLt; omega))
  · exact h.regs.afterAck fun e he =>
      ((h.setEnv he).inc _).nextAttempt fun hv => hv.recvAttempt rfl ⟨hexp, nofun⟩
  · rename_i hna hnack
    have hin : inLocate k = true := by
      cases k
      case acceptWrite seq p => exact absurd rfl (hna seq p)
      case ackWrite => exact absurd rfl hnack
      all_goals exact hk
    exact h.runLocate rfl hin hloc ⟨hexp, haccept⟩ fun r t ht hc hr => recvReliableReturn_safe ht hc.1 hr

/-! ## SEND_ACK -/

theorem sendAckStart_safe {a : Byte} {kind : AckKind} (h : s.RegsOk) (htaken : s.rspPending = false) :
    safeOut (sendAckStart a kind s) :=
  h.needConnected fun hphase =>
    State.Runs.callAck (i := .sendAck a kind) ⟨h, rfl, htaken, fun _ => hphase, nofun⟩ _ _ rfl trivial trivial

theorem sendAckResume_safe {a : Byte} {kind : AckKind} {k : Point} (h : s.RegsOk)
    (hk : waitsAt (.sendAck a kind) k = true) : safeOut (sendAckResume kind k s) := by
  obtain rfl : k = .ackWrite := by simpa [waitsAt] using hk
  exact h.afterAck (go := fun u => .next (u.respond {})) fun e he => ((h.setEnv he).inc _).respond rfl

end

/-! ## Every command, and every step -/

/-- It is `i`'s turn in `s`: a well-formed command that is accepted, or the one that runs. -/
def State.turnOf (s : State) (i : Instr) : Prop :=
  (s.ustate = .idle ∧ i.wf = true) ∨ ∃ k, s.ustate = .busy i k

/-- A command's meaning is safe from a safe state when it is so from acceptance and after each primitive it waits
for. -/
theorem running_safe {s : State} {i : Instr} {start : State → Out} {resume : Point → State → Out} (h : s.Inv)
    (hi : s.turnOf i) (hstart : ∀ u : State, u.RegsOk → u.rspPending = false → i.wf = true → safeOut (start u))
    (hresume : ∀ k, s.Runs i → waitsAt i k = true → s.locateOk i k → s.commandOk i k → safeOut (resume k s)) :
    safeOut (s.running i start resume) := by
  rcases hi with ⟨hidle, hwf⟩ | ⟨k, hbusy⟩
  · rw [State.running_idle hidle]
    exact hstart _ (h.regs.setRspPending _) rfl hwf
  · rw [State.running_busy hbusy]
    obtain ⟨hruns, hk, hloc, hcmd⟩ := (State.inv_busy_iff hbusy).1 h
    exact hresume k hruns hk hloc hcmd

/-- The same for a command that waits nowhere. -/
theorem running_safe_atOnce {s : State} {i : Instr} {start : State → Out} (h : s.Inv) (hi : s.turnOf i)
    (hstart : ∀ u : State, u.RegsOk → i.wf = true → safeOut (start u))
    (hnone : ∀ k, waitsAt i k = false := by intro; rfl) :
    safeOut (s.running i start fun _ _ => .fault .strayPoint) :=
  running_safe h hi (fun u hu _ hwf => hstart u hu hwf) fun k _ hk => absurd hk (by simp [hnone k])

theorem exec_safe {s : State} {i : Instr} (h : s.Inv) (hi : s.turnOf i) : safeOut (exec i s) := by
  cases i with
  | csCompute a b n d => exact running_safe_atOnce h hi fun _ hu _ => csComputeStart_safe hu a b n d
  | csVerify n d => exact running_safe_atOnce h hi fun _ hu hd => csVerifyStart_safe hu hd
  | encode a n d => exact running_safe_atOnce h hi fun _ hu _ => encodeStart_safe hu a n d
  | decode n d c => exact running_safe_atOnce h hi fun _ hu hd => decodeStart_safe hu hd c
  | locate c t =>
    exact running_safe h hi (start := locateStart c t)
      (resume := fun k s1 => s1.runLocate (.locate c t) c t k locateReturn)
      (fun _ hu htaken hwf => hu.needConnected fun hphase =>
        State.Runs.issue ⟨hu, hwf, htaken, fun _ => hphase, nofun⟩ _ rfl trivial trivial)
      fun _ hr hk hloc hcmd => hr.runLocate rfl hk hloc hcmd fun _ _ ht _ hs => locateReturn_safe ht.regs hs
  | setDeadline t =>
    exact running_safe h hi
      (fun _ hu htaken hwf => State.Runs.issue ⟨hu, hwf, htaken, nofun, nofun⟩ _ rfl trivial trivial)
      fun _ hr hk _ _ => setDeadlineResume_safe hr.regs hk
  | isElapsed =>
    exact running_safe h hi
      (fun _ hu htaken hwf => State.Runs.issue ⟨hu, hwf, htaken, nofun, nofun⟩ _ rfl trivial trivial)
      fun _ hr hk _ _ => isElapsedResume_safe hr.regs hk
  | connect a =>
    exact running_safe h hi (fun _ hu htaken _ => connectStart_safe hu htaken)
      fun _ hr hk _ hcmd => connectResume_safe hr hk hcmd
  | disconnect =>
    exact running_safe h hi
      (fun _ hu htaken hwf => hu.needConnected fun hphase =>
        State.Runs.issue ⟨hu, hwf, htaken, fun _ => hphase, nofun⟩ _ rfl trivial trivial)
      fun _ hr hk _ _ => disconnectResume_safe hr hk
  | sendBasic n d =>
    exact running_safe h hi (fun _ hu htaken hd => sendBasicStart_safe hu hd htaken)
      fun _ hr hk _ _ => sendBasicResume_safe hr.regs hk
  | sendReliable n d =>
    exact running_safe h hi (fun _ hu htaken hd => sendReliableStart_safe hu hd htaken)
      fun _ hr hk hloc hcmd => sendReliableResume_safe hr hk hloc hcmd
  | recvBasic c =>
    exact running_safe h hi
      (resume := fun k s1 => s1.runLocate (.recvBasic c) rxFrameMax s1.cfg.rxWait k (recvBasicReturn c))
      (fun _ hu htaken _ => recvBasicStart_safe hu htaken)
      fun _ hr hk hloc hcmd => hr.runLocate rfl hk hloc hcmd fun _ _ ht _ hs => recvBasicReturn_safe ht hs
  | recvReliable c =>
    exact running_safe h hi (fun _ hu htaken _ => recvReliableStart_safe hu htaken)
      fun _ hr hk hloc hcmd => recvReliableResume_safe hr hk hloc hcmd
  | sendAck a kind =>
    exact running_safe h hi (fun _ hu htaken _ => sendAckStart_safe hu htaken)
      fun _ hr hk _ _ => sendAckResume_safe hr.regs hk
  | getOptBlock => exact running_safe_atOnce h hi fun _ hu _ => hu.respond rfl

/-- R39: right after reset the invariant holds, whatever the configuration and the environment. -/
theorem State.resetFor_inv (cfg : Config) (env : Env) : (State.resetFor cfg env).Inv :=
  ⟨⟨rfl, rfl, rfl, Nat.zero_le _, Nat.zero_le _, Nat.zero_lt_succ _, Nat.zero_le _, rfl⟩, trivial⟩

/-- The command port and the reset input are outside the invariant. -/
theorem State.Inv.setEnv {s : State} (h : s.Inv) {e : Env} (he : s.env.now ≤ e.now) : (s.setEnv e).Inv :=
  ⟨h.regs.setEnv he, h.control⟩

theorem stepRunning_safe {s : State} (h : s.Inv) : safeOut (stepRunning s) := by
  unfold stepRunning
  split
  · exact exec_safe h (.inr ⟨_, ‹_›⟩)
  · rename_i hidle
    split
    · have hregs : (s.setEnv { s.env with taken := s.env.taken ++ [s.rsp] }).RegsOk := h.regs.setEnv (Nat.le_refl _)
      exact ⟨hregs.setRspPending false, by simp [State.controlOk, hidle]⟩
    · unfold acceptNext
      split
      · exact h
      · have hdrop : s.dropCommand.Inv := h.setEnv (Nat.le_refl _)
        split
        · exact exec_safe hdrop (.inl ⟨hidle, decodeCommand_wf ‹_›⟩)
        · exact hdrop.regs.raise _
        · rfl

/-- R22 to R35, R40, R64: a step from a safe state is safe. -/
theorem step_safe {s : State} (h : s.Inv) : safeOut (step s) := by
  unfold step
  split
  · exact stepRunning_safe h
  · exact State.resetFor_inv _ _
  · exact stepRunning_safe (h.setEnv (Nat.le_refl _))

end Sys2Proof.Machine
end

section
open Sys2Proof Sys2Proof.Machine

/-- Settles O12: nothing runs and every register is in its range. -/
theorem invariantAtReset : Obligations.InvariantAtReset := by
  unfold Obligations.InvariantAtReset
  exact State.resetFor_inv _ _

/-- Settles O13: `step_safe`, where the step answers a next state. -/
theorem stepKeepsTheInvariant : Obligations.StepKeepsTheInvariant := by
  unfold Obligations.StepKeepsTheInvariant
  intro s t h ht
  have hsafe := step_safe h
  rwa [ht] at hsafe

/-- Settles O14: `step_safe`, where the step stops. -/
theorem safeStatesNeverStick : Obligations.SafeStatesNeverStick := by
  unfold Obligations.SafeStatesNeverStick
  intro s h
  exact (step_safe h).allowed

end

section
/-! SUPPORT. The step by its turns, forward: what `step` equals with the reset input at each level
(spec/60_exceptions.md R224, spec/70_reset_and_hazards.md R250). -/

namespace Sys2Proof.Machine

theorem step_of_reset {s : State} {rest : List Bool} (h : s.env.rst = true :: rest) :
    step s = .next (State.resetFor s.cfg { s.env with rst := rest }) := by
  unfold step
  rw [h]
  rfl

/-- With reset not asserted the level is read, and the turn follows. -/
theorem step_of_not_reset {s : State} (h : s.env.rst.head? ≠ some true) :
    step s = stepRunning (s.setRst s.env.rst.tail) := by
  unfold step
  split
  · rename_i hrst
    rw [hrst, List.tail_nil, ← hrst]
    rfl
  · rename_i hrst
    simp [hrst] at h
  · rename_i hrst
    rw [hrst, List.tail_cons]

theorem stepRunning_busy {s : State} {i : Instr} {k : Point} (h : s.ustate = .busy i k) :
    stepRunning s = exec i s := by
  simp [stepRunning, h]

/-- R94: in IDLE with no response waiting the decoded command is accepted. -/
theorem stepRunning_accepts {s : State} {c : Command} {rest : List Command} {i : Instr} (hidle : s.ustate = .idle)
    (hpending : s.rspPending = false) (hcmds : s.env.cmds = c :: rest) (hdecode : decodeCommand c = .ok i) :
    stepRunning s = exec i (s.setEnv { s.env with cmds := rest }) := by
  have hdrop : s.dropCommand = s.setEnv { s.env with cmds := rest } := by
    rw [State.dropCommand, hcmds, List.tail_cons]
  simp [stepRunning, acceptNext, hidle, hpending, hcmds, hdecode, hdrop]

end Sys2Proof.Machine
end

section
open Sys2Proof Sys2Proof.Machine

/-- Settles O5: the level of the reset input has been read, and then the record, where one is accepted. -/
theorem stepRunsTheDecodedCommand : Obligations.StepRunsTheDecodedCommand := by
  unfold Obligations.StepRunsTheDecodedCommand
  intro s hrst
  rw [step_of_not_reset hrst]
  constructor
  · intro c rest i hidle hpending hcmds hdecode
    exact stepRunning_accepts (s := s.setRst s.env.rst.tail) hidle hpending hcmds hdecode
  · intro i k hbusy
    exact stepRunning_busy hbusy

/-- Settles O10: what reset leaves is a function of the configuration and the environment. -/
theorem resetAbortsTheCommand : Obligations.ResetAbortsTheCommand := by
  unfold Obligations.ResetAbortsTheCommand
  intro s rest hrst
  refine ⟨State.resetFor s.cfg { s.env with rst := rest }, step_of_reset hrst, rfl, rfl, fun s' hcfg henv => ?_⟩
  rw [step_of_reset (henv ▸ hrst), hcfg, henv]

/-- Settles O11: the registers by unfolding, and a buffer without bytes answers no read. -/
theorem stateAfterReset : Obligations.StateAfterReset := by
  unfold Obligations.StateAfterReset
  refine ⟨rfl, rfl, rfl, rfl, rfl, rfl, rfl, rfl, rfl, rfl, rfl, rfl, rfl, rfl, rfl, rfl, rfl, fun b i hi => ?_⟩
  have hempty : State.reset.buf b = [] := by cases b <;> rfl
  simp [State.memRead, Memory.read, hempty, Memory.get?, hi]

end

section
/-! SUPPORT. What one step of a command writes, from any state whatever: which registers (the 'State written' lines of
every command rule, spec/10_state.md R28 to R34), and how the Connection State moves (spec/43_arq.md R170, R180,
R181). -/

namespace Sys2Proof.Machine

/-! ## Compound operations, as the setters they are -/

@[simp] theorem State.newSession_eq (s : State) : s.newSession = ((s.setTxSeq 0).setRxLast 15).setCtr {} := rfl

@[simp] theorem State.advanceTxSeq_eq (s : State) : s.advanceTxSeq = s.setTxSeq (nextSeq s.txSeq) := rfl

@[simp] theorem State.readNow_state (s : State) : s.readNow.2 = s.setEnv s.env.readNow.2 := rfl

/-! ## The Connection State -/

/-- R23 to R27: the registers of the Connection State. -/
structure Session where
  phase : Phase
  txSeq : SeqNum
  rxLast : SeqNum
  ctr : Counters
  connStart : Time

/-- The Connection State of the block. -/
def State.session (s : State) : Session :=
  { phase := s.phase, txSeq := s.txSeq, rxLast := s.rxLast, ctr := s.ctr, connStart := s.connStart }

/-- R9: `inc(C)`. -/
def Session.count (σ : Session) (c : Counter) : Session := { σ with ctr := σ.ctr.bump c }

/-- R171: a successful open. -/
def Session.opened (σ : Session) : Session := { σ with txSeq := 0, rxLast := 15, ctr := {} }

/-- The commands that send a data frame (R175, R176). -/
def sendsFrame : Instr → Bool
  | .sendBasic _ _ => true
  | .sendReliable _ _ => true
  | _ => false

theorem sendsFrame_iff {i : Instr} : sendsFrame i = true ↔ ∃ n d, i = .sendBasic n d ∨ i = .sendReliable n d := by
  cases i <;> simp [sendsFrame]

/-- Command `i` leaves the Connection State `σ`, or adds one to a counter that R180 lists for it, in BUSY. -/
inductive Session.Kept (i : Instr) (w : UState) (σ : Session) : Session → Prop
  | same : Session.Kept i w σ σ
  | counted (c : Counter) (k : Point) (waited : w = .busy i k) (listed : counts i c = true) :
    Session.Kept i w σ (σ.count c)

/-- Everything a step of command `i` can do to the Connection State `σ`: made at the controller state `w`, it ends
in `t`. -/
inductive SessionStep (i : Instr) (w : UState) (σ : Session) (t : State) : Prop
  /-- nothing, or one count; a send that ends so has failed -/
  | keeps (session : σ.Kept i w t.session) (failed : sendsFrame i = true → t.ustate = .idle → t.rsp.status ≠ .ok)
  /-- R171: the transport has opened -/
  | opens (a : Byte) (command : i = .connect a) (waited : w = .busy i .xOpen) (session : t.session = σ.opened)
    (goesOn : t.ustate ≠ .idle)
  /-- R171: the last step of CONNECT -/
  | connects (a : Byte) (now : Time) (command : i = .connect a) (waited : w = .busy i .connectNow)
    (session : t.session = { σ with phase := .connected, connStart := now }) (ended : t.ustate = .idle)
    (ok : t.rsp.status = .ok)
  /-- R172: the last step of DISCONNECT -/
  | disconnects (r : CtrlAnswer) (command : i = .disconnect) (waited : w = .busy i (.disconnectNow r))
    (session : t.session = { σ with phase := .disconnected }) (ended : t.ustate = .idle)
  /-- R181: the OK of a send -/
  | sends (c : Counter) (k : Point) (command : sendsFrame i = true) (waited : w = .busy i k)
    (listed : counts i c = true)
    (session : t.session = { σ.count c with txSeq := nextSeq σ.txSeq }) (ended : t.ustate = .idle)
    (ok : t.rsp.status = .ok)
  /-- R178, R181: the OK of RECV_RELIABLE -/
  | accepts (cap : Len) (seq : Byte) (p : List Byte) (command : i = .recvReliable cap)
    (waited : w = .busy i (.acceptWrite seq p))
    (session : t.session = { σ.count .acksSent with rxLast := lowSeq seq }) (ended : t.ustate = .idle)
    (ok : t.rsp.status = .ok)

/-! ## The other registers -/

/-- The registers and buffers outside the Connection State and the response, in the groups the rules write together. -/
inductive RegGroup where
  /-- `dl` -/
  | deadline
  /-- `txf`, `txf_len` -/
  | transmit
  /-- `rxf`, `rxf_len` -/
  | receive
  /-- `akf` -/
  | ack
  /-- `cs_acc` -/
  | checksum
  /-- `loc_need`, `loc_cnt`, `loc_max` -/
  | locate
  /-- `tries` -/
  | tries
  /-- `expected` -/
  | expected

/-- The group holds in `t` what it held in `s`. -/
def RegGroup.same (s t : State) : RegGroup → Prop
  | .deadline => t.dl = s.dl
  | .transmit => (t.txf, t.txfLen) = (s.txf, s.txfLen)
  | .receive => (t.rxf, t.rxfLen) = (s.rxf, s.rxfLen)
  | .ack => t.akf = s.akf
  | .checksum => t.csAcc = s.csAcc
  | .locate => (t.locNeed, t.locCnt, t.locMax) = (s.locNeed, s.locCnt, s.locMax)
  | .tries => t.tries = s.tries
  | .expected => t.expected = s.expected

/-- R28 to R34: the commands whose 'State written' lines name a register of the group. -/
def mayWrite (i : Instr) : RegGroup → Prop
  | .deadline => usesLocate i = true ∨ ∃ d, i = .setDeadline d
  | .transmit => buildsFrame i = true
  | .receive => usesLocate i = true ∨ copiesOperand i = true
  | .ack => buildsAck i = true
  | .checksum => usesChecksum i = true
  | .locate => usesLocate i = true
  | .tries => retries i = true
  | .expected => ∃ c, i = .recvReliable c

theorem RegGroup.same_trans {s t u : State} {g : RegGroup} (h : g.same s t) (h' : g.same t u) : g.same s u := by
  cases g <;> exact Eq.trans h' h

/-! ## A command on its way -/

/-- Within one step command `i` has come from `s` to `u`: it has written only what it may, and the Connection State
is `σ`. -/
structure State.Reaches (i : Instr) (s : State) (σ : Session) (u : State) : Prop where
  written : ∀ g : RegGroup, mayWrite i g ∨ g.same s u
  session : u.session = σ

section
variable {i : Instr} {s u v : State} {σ : Session}

theorem State.Reaches.refl (i : Instr) (s : State) : s.Reaches i s.session s :=
  ⟨fun g => .inr (by cases g <;> rfl), rfl⟩

/-- Writes to the groups the command may write. -/
theorem State.Reaches.write (h : s.Reaches i σ u) (hv : ∀ g : RegGroup, mayWrite i g ∨ g.same u v)
    (hsession : v.session = u.session := by simp [State.session]) : s.Reaches i σ v := by
  refine ⟨fun g => ?_, hsession.trans h.session⟩
  rcases h.written g with hw | hsu
  · exact .inl hw
  · exact (hv g).imp_right (RegGroup.same_trans hsu)

/-- Writes to none of the groups. -/
theorem State.Reaches.keep (h : s.Reaches i σ u)
    (hv : ∀ g : RegGroup, g.same u v := by intro g; cases g <;> simp [RegGroup.same])
    (hsession : v.session = u.session := by simp [State.session]) : s.Reaches i σ v :=
  h.write (fun g => .inr (hv g)) hsession

/-- A move of the Connection State, and writes to none of the groups. -/
theorem State.Reaches.move {τ : Session} (h : s.Reaches i σ u) (hsession : v.session = τ)
    (hv : ∀ g : RegGroup, g.same u v := by intro g; cases g <;> simp [RegGroup.same]) : s.Reaches i τ v :=
  ⟨fun g => (h.written g).imp_right (RegGroup.same_trans · (hv g)), hsession⟩

/-- A count. -/
theorem State.Reaches.inc (h : s.Reaches i σ u) (c : Counter) : s.Reaches i (σ.count c) (u.inc c) :=
  h.move (by rw [← h.session]; simp [State.session, Session.count])

/-- An environment that has answered. -/
theorem State.Reaches.setEnv (h : s.Reaches i σ u) (e : Env) : s.Reaches i σ (u.setEnv e) := h.keep

theorem State.Reaches.setTries (h : s.Reaches i σ u) (hi : retries i = true) (n : Nat) :
    s.Reaches i σ (u.setTries n) := by
  refine h.write fun g => ?_
  cases g
  case tries => exact .inl hi
  all_goals exact .inr rfl

theorem State.Reaches.setCsAcc (h : s.Reaches i σ u) (hi : usesChecksum i = true) (x : Byte) :
    s.Reaches i σ (u.setCsAcc x) := by
  refine h.write fun g => ?_
  cases g
  case checksum => exact .inl hi
  all_goals exact .inr rfl

theorem State.Reaches.verify {len : Nat} {good : Bool} (h : s.Reaches i σ u) (hi : usesChecksum i = true)
    (hv : u.verify len = .ok (good, v)) : s.Reaches i σ v := by
  obtain ⟨acc, rfl⟩ := State.verify_frame hv
  exact h.setCsAcc hi acc

theorem State.Reaches.encode {p : List Byte} {seq : Byte} (h : s.Reaches i σ u) (hi : usesChecksum i = true)
    (hb : buildsFrame i = true) (he : u.encode p seq = .ok (some v)) : s.Reaches i σ v := by
  rcases Nat.lt_or_ge 253 p.length with hp | hp
  · cases (u.encode_tooLarge seq hp).symm.trans he
  · cases (u.encode_ok seq hp).symm.trans he
    refine h.write (fun g => ?_) (by simp [State.session, State.encoded])
    cases g
    case checksum => exact .inl hi
    case transmit => exact .inl hb
    all_goals exact .inr rfl

theorem State.Reaches.loadRxf {n : Len} {d : List Byte} (h : s.Reaches i σ u) (hi : copiesOperand i = true)
    (hl : u.loadRxf n d = .ok v) : s.Reaches i σ v := by
  obtain ⟨t, ht, rfl⟩ := except_map_eq_ok hl
  obtain ⟨m, rfl⟩ := State.memWriteAll_eq_ok ht
  refine h.write fun g => ?_
  cases g
  case receive => exact .inl (.inr hi)
  all_goals exact .inr rfl

theorem State.Reaches.ackBuilt (h : s.Reaches i σ u) (hi : usesChecksum i = true) (hb : buildsAck i = true)
    (kind : AckKind) (seq : Byte) : s.Reaches i σ (u.ackBuilt kind seq) := by
  refine h.write (fun g => ?_) (by simp [State.session, State.ackBuilt])
  cases g
  case checksum => exact .inl hi
  case ack => exact .inl hb
  all_goals exact .inr rfl

theorem State.Reaches.afterLocate (h : s.Reaches i σ u) (hi : usesLocate i = true) (e dl max need cnt m len) :
    s.Reaches i σ ((u.afterLocate e dl max need cnt m).setRxfLen len) := by
  refine h.write (fun g => ?_) (by simp [State.session, State.afterLocate])
  cases g
  case deadline => exact .inl (.inl hi)
  case receive => exact .inl (.inl hi)
  case locate => exact .inl hi
  all_goals exact .inr rfl

end

/-! ## How a step ends -/

/-- What a step of command `i` answers from `s`: a state in which only registers the command may write have changed, and
the Connection State has moved as it can; or it stops. -/
def State.stepsWithin (s : State) (i : Instr) : Out → Prop
  | .next t => (∀ g : RegGroup, mayWrite i g ∨ g.same s t) ∧ SessionStep i s.ustate s.session t
  | .fault _ => True
  | .refused _ => True

section
variable {i : Instr} {s u : State} {σ : Session} {go : State → Out}

/-- The command issues a request. -/
theorem State.Reaches.issues (h : s.Reaches i σ u) (hσ : s.session.Kept i s.ustate σ) (k : Point) (q : Request) :
    s.stepsWithin i (.next (u.issue i k q)) :=
  have hu : s.Reaches i σ (u.issue i k q) := h.keep
  ⟨hu.written, .keeps (hu.session ▸ hσ) nofun⟩

/-- A response that is no OK of a send. -/
theorem State.Reaches.responds (h : s.Reaches i σ u) (hσ : s.session.Kept i s.ustate σ) {r : Response}
    (hr : sendsFrame i = true → r.status ≠ .ok) : s.stepsWithin i (.next (u.respond r)) :=
  have hu : s.Reaches i σ (u.respond r) := h.keep
  ⟨hu.written, .keeps (hu.session ▸ hσ) fun hi _ => hr hi⟩

theorem State.Reaches.raises (h : s.Reaches i σ u) (hσ : s.session.Kept i s.ustate σ) {st : Status}
    (hst : st ≠ .ok) : s.stepsWithin i (.next (u.raise st)) :=
  h.responds hσ fun _ => hst

theorem State.Reaches.raisesTransport (h : s.Reaches i σ u) (hσ : s.session.Kept i s.ustate σ) (x : Int) :
    s.stepsWithin i (.next (u.raiseTransport x)) :=
  h.responds hσ fun _ => nofun

theorem stepsWithin_orFault {α : Type} {x : Except Fault α} {go : α → Out}
    (hgo : ∀ a, x = .ok a → s.stepsWithin i (go a)) : s.stepsWithin i (orFault x go) := by
  cases x with
  | ok a => exact hgo a rfl
  | error f => trivial

theorem State.Reaches.needOperand (h : s.Reaches i s.session u) {n : Len} (hgo : s.stepsWithin i (go u)) :
    s.stepsWithin i (u.needOperand n go) := by
  unfold State.needOperand
  split
  · exact h.raises .same nofun
  · exact hgo

theorem State.Reaches.needConnected (h : s.Reaches i s.session u) (hgo : s.stepsWithin i (go u)) :
    s.stepsWithin i (u.needConnected go) := by
  unfold State.needConnected
  split
  · exact hgo
  · exact h.raises .same nofun

theorem State.Reaches.needBlock (h : s.Reaches i s.session u) {n : Len} (hgo : s.stepsWithin i (go u)) :
    s.stepsWithin i (u.needBlock n go) := by
  unfold State.needBlock
  split
  · exact h.raises .same nofun
  · exact hgo

theorem State.Reaches.afterWrite (h : s.Reaches i s.session u) (len : Nat)
    (hgo : ∀ v, s.Reaches i s.session v → s.stepsWithin i (go v)) : s.stepsWithin i (u.afterWrite len go) := by
  rcases u.afterWrite_cases len go with ⟨e, -, -, heq⟩ | ⟨k, e, -, -, -, heq⟩ | ⟨x, e, -, -, heq⟩ |
    ⟨k, -, heq⟩ <;> rw [heq]
  · exact hgo _ (h.setEnv e)
  · exact (h.setEnv e).raises .same nofun
  · exact (h.setEnv e).raisesTransport .same x
  · trivial

theorem State.Reaches.afterAck (h : s.Reaches i s.session u) (kind : AckKind)
    (hgo : ∀ v, s.Reaches i (s.session.count (sentCounter kind)) v → s.stepsWithin i (go v)) :
    s.stepsWithin i (u.afterAck kind go) :=
  h.afterWrite ackLen fun _ hv => hgo _ (hv.inc _)

theorem State.Reaches.nextAttempt (h : s.Reaches i σ u) (hσ : s.session.Kept i s.ustate σ) (hi : retries i = true)
    (hgo : ∀ v, s.Reaches i σ v → s.stepsWithin i (go v)) : s.stepsWithin i (u.nextAttempt go) := by
  unfold State.nextAttempt
  split
  · exact hgo _ (h.setTries hi _)
  · exact h.raises hσ nofun

theorem State.Reaches.callAck (h : s.Reaches i σ u) (hσ : s.session.Kept i s.ustate σ) (hi : usesChecksum i = true)
    (hb : buildsAck i = true) (k : Point) (kind : AckKind) (seq : Byte) :
    s.stepsWithin i (orFault (u.callAck i k kind seq) .next) := by
  rw [State.callAck_ok]
  exact (h.ackBuilt hi hb kind seq).issues hσ _ _

theorem State.Reaches.sendAttempt (h : s.Reaches i σ u) (hσ : s.session.Kept i s.ustate σ) :
    s.stepsWithin i (sendAttempt i u) := by
  refine stepsWithin_orFault fun t ht => ?_
  obtain ⟨bytes, -, rfl⟩ := except_map_eq_ok ht
  exact h.issues hσ _ _

theorem State.Reaches.recvAttempt (h : s.Reaches i σ u) (hσ : s.session.Kept i s.ustate σ) :
    s.stepsWithin i (recvAttempt i u) :=
  h.issues hσ _ _

/-- `Locate` run on: it waits again, or the command goes on with its result. -/
theorem State.Reaches.runLocate {max : Len} {limit : Time} {k : Point} {go : LocateResult → State → Out}
    (h : s.Reaches i s.session u) (hi : usesLocate i = true)
    (hgo : ∀ r v, s.Reaches i s.session v → s.stepsWithin i (go r v)) :
    s.stepsWithin i (u.runLocate i max limit k go) := by
  refine stepsWithin_orFault fun r hr => ?_
  obtain ⟨e, dl, max', need, cnt, m, -, -, hform⟩ := locateStep_form hr
  have hv := h.afterLocate hi e dl max' need cnt m
  cases r with
  | waits t =>
    obtain ⟨k', q, -, -, rfl⟩ := hform
    exact (hv u.rxfLen).issues .same _ _
  | returns res t =>
    obtain ⟨len, rfl, -⟩ := hform
    exact hgo _ _ (hv len)

/-- A command's meaning steps within its writes when it does from acceptance and after each primitive. -/
theorem stepsWithin_running {start : State → Out} {resume : Point → State → Out}
    (hstart : ∀ u, s.Reaches i s.session u → s.stepsWithin i (start u))
    (hresume : ∀ k, s.ustate = .busy i k → s.Reaches i s.session s → s.stepsWithin i (resume k s)) :
    s.stepsWithin i (s.running i start resume) := by
  unfold State.running
  split
  · exact hstart _ (State.Reaches.refl i s).keep
  · rename_i j k hbusy
    split
    · rename_i hj
      exact hresume k (hj ▸ hbusy) (.refl i s)
    · trivial

end

/-! ## Every command -/

section
variable (s : State)

theorem execCsCompute_stepsWithin (a b : Byte) (n : Len) (d : List Byte) :
    s.stepsWithin (.csCompute a b n d) (execCsCompute a b n d s) :=
  stepsWithin_running (fun _ h => h.needOperand ((h.setCsAcc rfl _).responds .same nofun)) fun _ _ _ => trivial

theorem execCsVerify_stepsWithin (n : Len) (d : List Byte) : s.stepsWithin (.csVerify n d) (execCsVerify n d s) :=
  stepsWithin_running
    (fun _ h => h.needOperand <| stepsWithin_orFault fun _ hl => stepsWithin_orFault fun _ hv =>
      ((h.loadRxf rfl hl).verify rfl hv).responds .same nofun)
    fun _ _ _ => trivial

theorem execEncode_stepsWithin (a : Byte) (n : Len) (d : List Byte) :
    s.stepsWithin (.encode a n d) (execEncode a n d s) := by
  refine stepsWithin_running (fun u h => h.needOperand (stepsWithin_orFault fun r hr => ?_)) fun _ _ _ => trivial
  cases r with
  | none => exact h.raises .same nofun
  | some v => exact stepsWithin_orFault fun _ _ => (h.encode rfl rfl hr).responds .same nofun

theorem execDecode_stepsWithin (n : Len) (d : List Byte) (c : Len) :
    s.stepsWithin (.decode n d c) (execDecode n d c s) := by
  refine stepsWithin_running (fun u h => h.needOperand ?_) fun _ _ _ => trivial
  split
  · exact h.raises .same nofun
  · exact stepsWithin_orFault fun _ hl => stepsWithin_orFault fun _ _ => (h.loadRxf rfl hl).responds .same nofun

theorem execLocate_stepsWithin (c : Len) (t : Time) : s.stepsWithin (.locate c t) (execLocate c t s) := by
  refine stepsWithin_running (fun _ h => h.needConnected (h.issues .same _ _)) fun k _ h =>
    h.runLocate rfl fun r v hv => ?_
  cases r with
  | transportErr x => exact hv.raisesTransport .same x
  | noFrame => exact hv.raises .same nofun
  | frame len => exact stepsWithin_orFault fun _ _ => hv.responds .same nofun

theorem execSetDeadline_stepsWithin (t : Time) : s.stepsWithin (.setDeadline t) (execSetDeadline t s) := by
  refine stepsWithin_running (fun _ h => h.issues .same _ _) fun k _ h => ?_
  unfold setDeadlineResume
  split
  · have hdl : s.Reaches (.setDeadline t) s.session (s.readNow.2.setDl (s.readNow.1 + t)) := by
      refine (h.setEnv s.env.readNow.2).write fun g => ?_
      cases g
      case deadline => exact .inl (.inr ⟨t, rfl⟩)
      all_goals exact .inr rfl
    exact hdl.responds .same nofun
  · trivial

theorem execIsElapsed_stepsWithin : s.stepsWithin .isElapsed (execIsElapsed s) := by
  refine stepsWithin_running (fun _ h => h.issues .same _ _) fun k _ h => ?_
  unfold isElapsedResume
  split
  · exact (h.setEnv s.env.readNow.2).responds .same nofun
  · trivial

theorem execConnect_stepsWithin (a : Byte) : s.stepsWithin (.connect a) (execConnect a s) := by
  refine stepsWithin_running (fun u h => ?_) fun k hbusy h => ?_
  · unfold connectStart
    split
    · exact h.raises .same nofun
    · exact h.issues .same _ _
  · unfold connectResume
    split
    · rw [State.ctrlAnswer_eq]
      cases s.env.ctrlAnswer.1 with
      | err x => exact (h.setEnv s.env.ctrlAnswer.2).raisesTransport .same x
      | ok =>
        have hopened : s.Reaches (.connect a) s.session.opened
            ((s.setEnv s.env.ctrlAnswer.2).newSession.issue (.connect a) .connectNow .now) :=
          h.move (by simp [State.session, Session.opened])
        exact ⟨hopened.written, .opens a rfl hbusy hopened.session nofun⟩
    · have hconnected : s.Reaches (.connect a) { s.session with phase := .connected, connStart := s.readNow.1 }
          (((s.readNow.2.setConnStart s.readNow.1).setPhase .connected).respond {}) :=
        h.move (by simp [State.session])
      exact ⟨hconnected.written, .connects a _ rfl hbusy hconnected.session rfl rfl⟩
    · trivial

theorem execDisconnect_stepsWithin : s.stepsWithin .disconnect (execDisconnect s) := by
  refine stepsWithin_running (fun u h => h.needConnected (h.issues .same _ _)) fun k hbusy h => ?_
  unfold disconnectResume
  split
  · exact (h.setEnv s.env.ctrlAnswer.2).issues .same _ _
  · rename_i r
    have hleft : s.Reaches .disconnect { s.session with phase := .disconnected }
        ((s.readNow.2.setPhase .disconnected).respond
          (disconnectResponse r (s.ctr.report (s.readNow.1 - s.connStart)))) :=
      h.move (by simp [State.session])
    exact ⟨hleft.written, .disconnects r rfl hbusy hleft.session rfl⟩
  · trivial

section
variable {s} {i : Instr} {u : State}

/-- The checks and the encoding both sends begin with. -/
theorem State.Reaches.sendChecked {n : Len} {d : List Byte} {go : State → Out} (h : s.Reaches i s.session u)
    (hi : usesChecksum i = true) (hb : buildsFrame i = true)
    (hgo : ∀ v, s.Reaches i s.session v → s.stepsWithin i (go v)) : s.stepsWithin i (sendChecked n d u go) := by
  refine h.needOperand (h.needConnected (h.needBlock (stepsWithin_orFault fun r hr => ?_)))
  cases r with
  | none => exact h.raises .same nofun
  | some v => exact hgo _ (h.encode hi hb hr)

/-- R181: the OK of a send counts once and advances `tx_seq`. -/
theorem State.Reaches.sendOk (h : s.Reaches i s.session u) (hi : sendsFrame i = true) {k : Point}
    (hbusy : s.ustate = .busy i k) {c : Counter} (hc : counts i c = true) :
    s.stepsWithin i (.next ((u.inc c).advanceTxSeq.respond {})) :=
  have hsent : s.Reaches i { s.session.count c with txSeq := nextSeq s.session.txSeq }
      ((u.inc c).advanceTxSeq.respond {}) :=
    h.move (by rw [← h.session]; simp [State.session, Session.count])
  ⟨hsent.written, .sends c k hi hbusy hc hsent.session rfl rfl⟩

theorem State.Reaches.sendReturn {n : Len} {d : List Byte} {k : Point} (h : s.Reaches (.sendReliable n d) s.session u)
    (hbusy : s.ustate = .busy (.sendReliable n d) k) (r : LocateResult) :
    s.stepsWithin (.sendReliable n d) (sendReturn (.sendReliable n d) r u) := by
  have hagain : ∀ (c : Counter) (v : State), counts (.sendReliable n d) c = true →
      s.Reaches (.sendReliable n d) s.session v →
      s.stepsWithin (.sendReliable n d) ((v.inc c).nextAttempt (Machine.sendAttempt (.sendReliable n d))) :=
    fun c v hc hv => (hv.inc c).nextAttempt (.counted c k hbusy hc) rfl fun w hw =>
      hw.sendAttempt (.counted c k hbusy hc)
  cases r with
  | transportErr x => exact h.raisesTransport .same x
  | noFrame => exact hagain .timeouts u rfl h
  | frame len =>
    refine stepsWithin_orFault fun ⟨good, v⟩ hver => ?_
    have hv := h.verify rfl hver
    cases good with
    | false => exact hagain .badRcvd v rfl hv
    | true =>
      refine stepsWithin_orFault fun ⟨st, aseq⟩ _ => ?_
      have hlisted : counts (.sendReliable n d) (rcvdCounter (positiveAck v.cfg st)) = true := by
        cases positiveAck v.cfg st <;> rfl
      dsimp only
      split
      · exact hv.sendOk rfl hbusy hlisted
      · exact hagain _ v hlisted hv

end

theorem execSendBasic_stepsWithin (n : Len) (d : List Byte) : s.stepsWithin (.sendBasic n d) (execSendBasic n d s) := by
  refine stepsWithin_running (fun _ h => h.sendChecked rfl rfl fun _ hv => hv.sendAttempt .same) fun k hbusy h => ?_
  unfold sendBasicResume
  split
  · exact h.afterWrite _ fun _ hv => hv.sendOk rfl hbusy rfl
  · trivial

theorem execSendReliable_stepsWithin (n : Len) (d : List Byte) :
    s.stepsWithin (.sendReliable n d) (execSendReliable n d s) := by
  refine stepsWithin_running (fun _ h => h.sendChecked rfl rfl fun _ hv => (hv.setTries rfl 1).sendAttempt .same)
    fun k hbusy h => ?_
  unfold sendReliableResume
  split
  · exact h.afterWrite _ fun _ hv => (hv.inc .framesSent).issues (.counted _ _ hbusy rfl) _ _
  · exact h.runLocate rfl fun r _ hv => hv.sendReturn hbusy r

theorem execRecvBasic_stepsWithin (c : Len) : s.stepsWithin (.recvBasic c) (execRecvBasic c s) := by
  refine stepsWithin_running (fun _ h => h.needConnected ((h.setTries rfl 1).recvAttempt .same)) fun k hbusy h =>
    h.runLocate rfl fun r u hu => ?_
  have hcounted : ∀ e, counts (.recvBasic c) e = true →
      s.session.Kept (.recvBasic c) s.ustate (s.session.count e) := fun e => .counted e k hbusy
  cases r with
  | transportErr x => exact hu.raisesTransport .same x
  | noFrame =>
    exact (hu.inc .timeouts).nextAttempt (hcounted _ rfl) rfl fun _ hv => hv.recvAttempt (hcounted _ rfl)
  | frame len =>
    refine stepsWithin_orFault fun ⟨good, v⟩ hver => ?_
    have hv := hu.verify rfl hver
    cases good with
    | false => exact (hv.inc .badRcvd).responds (hcounted _ rfl) nofun
    | true => exact stepsWithin_orFault fun _ _ => (hv.inc .goodRcvd).responds (hcounted _ rfl) nofun

theorem State.Reaches.recvReliableReturn {s u : State} {c : Len} {k : Point}
    (h : s.Reaches (.recvReliable c) s.session u) (hbusy : s.ustate = .busy (.recvReliable c) k) (r : LocateResult) :
    s.stepsWithin (.recvReliable c) (recvReliableReturn c r u) := by
  have hcounted : ∀ e, counts (.recvReliable c) e = true →
      s.session.Kept (.recvReliable c) s.ustate (s.session.count e) := fun e => .counted e k hbusy
  cases r with
  | transportErr x => exact h.raisesTransport .same x
  | noFrame =>
    exact (h.inc .timeouts).nextAttempt (hcounted _ rfl) rfl fun _ hv => hv.recvAttempt (hcounted _ rfl)
  | frame len =>
    refine stepsWithin_orFault fun ⟨good, v⟩ hver => ?_
    have hv := h.verify rfl hver
    cases good with
    | false => exact stepsWithin_orFault fun _ _ => (hv.inc .badRcvd).callAck (hcounted _ rfl) rfl rfl _ _ _
    | true =>
      refine stepsWithin_orFault fun ⟨p, seq⟩ _ => ?_
      have hack := fun k' kind seq' => (hv.inc .goodRcvd).callAck (hcounted _ rfl) rfl rfl k' kind seq'
      dsimp only
      split
      · exact hack _ _ _
      · split <;> exact hack _ _ _

/-- R178, R181: the OK of RECV_RELIABLE counts its ACK and moves `rx_last` to the frame's number. -/
theorem State.Reaches.acceptOk {s u : State} {c : Len} {seq : Byte} {p : List Byte}
    (h : s.Reaches (.recvReliable c) s.session u) (hbusy : s.ustate = .busy (.recvReliable c) (.acceptWrite seq p)) :
    s.stepsWithin (.recvReliable c)
      (.next (((u.inc .acksSent).setRxLast (lowSeq seq)).respond { n := lenField p, d := p })) :=
  have hok : s.Reaches (.recvReliable c) { s.session.count .acksSent with rxLast := lowSeq seq }
      (((u.inc .acksSent).setRxLast (lowSeq seq)).respond { n := lenField p, d := p }) :=
    h.move (by rw [← h.session]; simp [State.session, Session.count])
  ⟨hok.written, .accepts c seq p rfl hbusy hok.session rfl rfl⟩

theorem execRecvReliable_stepsWithin (c : Len) : s.stepsWithin (.recvReliable c) (execRecvReliable c s) := by
  refine stepsWithin_running (fun u h => h.needConnected ?_) fun k hbusy h => ?_
  · have hexp : s.Reaches (.recvReliable c) s.session (u.setExpected (nextSeq u.rxLast)) := by
      refine h.write fun g => ?_
      cases g
      case expected => exact .inl ⟨c, rfl⟩
      all_goals exact .inr rfl
    exact (hexp.setTries rfl 1).recvAttempt .same
  · unfold recvReliableResume
    split
    · exact h.afterWrite ackLen fun v hv => hv.acceptOk hbusy
    · exact h.afterAck .neg fun v hv => hv.nextAttempt (.counted _ _ hbusy rfl) rfl fun w hw =>
        hw.recvAttempt (.counted _ _ hbusy rfl)
    · exact h.runLocate rfl fun r _ hv => hv.recvReliableReturn hbusy r

theorem execSendAck_stepsWithin (a : Byte) (kind : AckKind) :
    s.stepsWithin (.sendAck a kind) (execSendAck a kind s) := by
  refine stepsWithin_running (fun _ h => h.needConnected (h.callAck .same rfl rfl _ _ _)) fun k hbusy h => ?_
  unfold sendAckResume
  split
  · exact h.afterAck kind fun _ hv => hv.responds (.counted _ _ hbusy (by cases kind <;> rfl)) nofun
  · trivial

theorem execGetOptBlock_stepsWithin : s.stepsWithin .getOptBlock (execGetOptBlock s) :=
  stepsWithin_running (fun _ h => h.responds .same nofun) fun _ _ _ => trivial

/-- Every step of every command, from any state. -/
theorem exec_stepsWithin (i : Instr) : s.stepsWithin i (exec i s) := by
  cases i with
  | csCompute a b n d => exact execCsCompute_stepsWithin s a b n d
  | csVerify n d => exact execCsVerify_stepsWithin s n d
  | encode a n d => exact execEncode_stepsWithin s a n d
  | decode n d c => exact execDecode_stepsWithin s n d c
  | locate c t => exact execLocate_stepsWithin s c t
  | setDeadline t => exact execSetDeadline_stepsWithin s t
  | isElapsed => exact execIsElapsed_stepsWithin s
  | connect a => exact execConnect_stepsWithin s a
  | disconnect => exact execDisconnect_stepsWithin s
  | sendBasic n d => exact execSendBasic_stepsWithin s n d
  | sendReliable n d => exact execSendReliable_stepsWithin s n d
  | recvBasic c => exact execRecvBasic_stepsWithin s c
  | recvReliable c => exact execRecvReliable_stepsWithin s c
  | sendAck a kind => exact execSendAck_stepsWithin s a kind
  | getOptBlock => exact execGetOptBlock_stepsWithin s

end

section
variable {s t : State} {i : Instr}

theorem exec_written (h : exec i s = .next t) (g : RegGroup) : mayWrite i g ∨ g.same s t := by
  have hi := exec_stepsWithin s i
  rw [h] at hi
  exact hi.1 g

theorem exec_session (h : exec i s = .next t) : SessionStep i s.ustate s.session t := by
  have hi := exec_stepsWithin s i
  rw [h] at hi
  exact hi.2

/-- A count moves nothing of the Connection State but its counter. -/
theorem Session.Kept.phase {w : UState} {σ τ : Session} (h : σ.Kept i w τ) : τ.phase = σ.phase := by
  cases h <;> rfl

theorem Session.Kept.txSeq {w : UState} {σ τ : Session} (h : σ.Kept i w τ) : τ.txSeq = σ.txSeq := by
  cases h <;> rfl

theorem Session.Kept.rxLast {w : UState} {σ τ : Session} (h : σ.Kept i w τ) : τ.rxLast = σ.rxLast := by
  cases h <;> rfl

theorem Session.Kept.connStart {w : UState} {σ τ : Session} (h : σ.Kept i w τ) : τ.connStart = σ.connStart := by
  cases h <;> rfl

theorem Session.Kept.ctr {w : UState} {σ τ : Session} (h : σ.Kept i w τ) :
    τ.ctr = σ.ctr ∨ ∃ c, counts i c = true ∧ τ.ctr = σ.ctr.bump c := by
  cases h with
  | same => exact .inl rfl
  | counted c k _ listed => exact .inr ⟨c, listed, rfl⟩

/-- `seq[3:0]` of a zero-extended sequence number. -/
theorem lowSeq_zext8 (q : SeqNum) : lowSeq (zext8 q) = q := by
  simp [lowSeq, zext8]

/-- R27, R171: only CONNECT writes `conn_start`. -/
theorem SessionStep.connStart {w : UState} {σ : Session} (h : SessionStep i w σ t)
    (hne : t.connStart ≠ σ.connStart) : ∃ a, i = .connect a := by
  have hstart {τ : Session} (hτ : t.session = τ) : t.connStart = τ.connStart := congrArg Session.connStart hτ
  cases h with
  | keeps session _ => exact absurd session.connStart hne
  | opens a command => exact ⟨a, command⟩
  | connects a _ command => exact ⟨a, command⟩
  | disconnects _ _ _ session _ => exact absurd (hstart session) hne
  | sends _ _ _ _ _ session _ _ => exact absurd (hstart session) hne
  | accepts _ _ _ _ _ session _ _ => exact absurd (hstart session) hne

/-- R26, R180: only CONNECT and the commands of R180 write a counter. -/
theorem SessionStep.ctr {w : UState} {σ : Session} (h : SessionStep i w σ t) (hne : t.ctr ≠ σ.ctr) :
    (∃ a, i = .connect a) ∨ ∃ c, counts i c = true := by
  have hctr {τ : Session} (hτ : t.session = τ) : t.ctr = τ.ctr := congrArg Session.ctr hτ
  cases h with
  | keeps session _ =>
    rcases session.ctr with heq | ⟨c, hlisted, -⟩
    · exact absurd heq hne
    · exact .inr ⟨c, hlisted⟩
  | opens a command => exact .inl ⟨a, command⟩
  | connects a _ command => exact .inl ⟨a, command⟩
  | disconnects _ _ _ session _ => exact absurd (hctr session) hne
  | sends c _ _ _ listed => exact .inr ⟨c, listed⟩
  | accepts _ _ _ command => exact .inr ⟨.acksSent, command ▸ rfl⟩

/-- From IDLE no step of a command moves the Connection State. -/
theorem SessionStep.idle {σ : Session} (h : SessionStep i .idle σ t) : t.session = σ := by
  cases h with
  | keeps session _ =>
    generalize t.session = τ at session
    cases session with
    | same => rfl
    | counted c k waited _ => cases waited
  | opens a _ waited => cases waited
  | connects a now _ waited => cases waited
  | disconnects r _ waited => cases waited
  | sends c k _ waited => cases waited
  | accepts cap seq p _ waited => cases waited

/-- The Connection State after a step of the machine: its reset values, what the running command does to it, or what
it was. -/
theorem step_session (h : step s = .next t) :
    (s.env.rst.head? = some true ∧ t.session = ⟨.disconnected, 0, 15, {}, 0⟩) ∨
      (∃ i k, s.ustate = .busy i k ∧ SessionStep i s.ustate s.session t) ∨ t.session = s.session := by
  rcases step_cases h with ⟨rest, hrst, rfl⟩ | ⟨-, hturn⟩
  · exact .inl ⟨by rw [hrst]; rfl, rfl⟩
  · right
    cases hturn with
    | runs i k busy ran =>
      have hs := exec_session ran
      exact .inl ⟨i, k, busy, hs⟩
    | takes _ _ taken => subst taken; exact .inr (by simp [State.session])
    | waits _ _ _ same => subst same; exact .inr rfl
    | accepts c rest i idle _ _ _ ran =>
      have hs := exec_session ran
      rw [State.dropCommand_ustate, idle] at hs
      exact .inr hs.idle
    | illegal c rest op _ _ _ _ answered => subst answered; exact .inr (by simp [State.session, State.answerIllegal])

end

end Sys2Proof.Machine
end

section
open Sys2Proof Sys2Proof.Machine

/-- Settles O16: of everything a step can do to the Connection State, only reset and the last steps of CONNECT and
DISCONNECT move `phase`. -/
theorem phaseChangesOnlyInSessionCommands : Obligations.PhaseChangesOnlyInSessionCommands := by
  unfold Obligations.PhaseChangesOnlyInSessionCommands
  intro s t h hne
  have hphase {σ : Session} (hσ : t.session = σ) : t.phase = σ.phase := congrArg Session.phase hσ
  rcases step_session h with ⟨hrst, hs⟩ | ⟨i, k, hbusy, hs⟩ | hs
  · exact .inl ⟨hrst, hphase hs⟩
  · right
    cases hs with
    | keeps session _ => exact absurd session.phase hne
    | opens a _ _ session _ => exact absurd (hphase session) hne
    | connects a now command waited session ended ok =>
      exact .inl ⟨a, command ▸ waited, hphase session, ended, ok⟩
    | disconnects r command waited session ended => exact .inr ⟨r, command ▸ waited, hphase session, ended⟩
    | sends c k _ _ _ session _ _ => exact absurd (hphase session) hne
    | accepts cap seq p _ _ session _ _ => exact absurd (hphase session) hne
  · exact absurd (hphase hs) hne

/-- Settles O17: the moves of `tx_seq` among everything a step can do to the Connection State. -/
theorem txSeqAdvancesExactlyWithAnOkSend : Obligations.TxSeqAdvancesExactlyWithAnOkSend := by
  unfold Obligations.TxSeqAdvancesExactlyWithAnOkSend
  have htx {t : State} {σ : Session} (hσ : t.session = σ) : t.txSeq = σ.txSeq := congrArg Session.txSeq hσ
  constructor
  · intro s t h hne
    rcases step_session h with ⟨hrst, hs⟩ | ⟨i, k, hbusy, hs⟩ | hs
    · exact .inl ⟨hrst, htx hs⟩
    · right
      cases hs with
      | keeps session _ => exact absurd session.txSeq hne
      | opens a command waited session goesOn => exact .inl ⟨a, command ▸ waited, htx session, goesOn⟩
      | connects a now _ _ session _ _ => exact absurd (htx session) hne
      | disconnects r _ _ session _ => exact absurd (htx session) hne
      | sends c k command waited _ _ ended ok => exact .inr ⟨i, k, waited, sendsFrame_iff.1 command, ended, ok⟩
      | accepts cap seq p _ _ session _ _ => exact absurd (htx session) hne
    · exact absurd (htx hs) hne
  · intro s t i k hi hbusy h hidle hok
    have hsend : sendsFrame i = true := sendsFrame_iff.2 hi
    cases exec_session h with
    | keeps _ failed => exact absurd hok (failed hsend hidle)
    | opens a _ _ _ goesOn => exact absurd hidle goesOn
    | sends c k _ _ _ session _ _ =>
      rw [htx session, nextSeq, BitVec.toNat_add]
      rfl
    | connects a now command => subst command; cases hsend
    | disconnects r command => subst command; cases hsend
    | accepts cap seq p command => subst command; cases hsend

/-- Settles O18: at its ACK the frame's number is the expected one, which the invariant ties to `rx_last`. -/
theorem rxLastMovesOnlyWithAnAcceptedFrame : Obligations.RxLastMovesOnlyWithAnAcceptedFrame := by
  unfold Obligations.RxLastMovesOnlyWithAnAcceptedFrame
  intro s t hinv h hne
  have hrx {σ : Session} (hσ : t.session = σ) : t.rxLast = σ.rxLast := congrArg Session.rxLast hσ
  rcases step_session h with ⟨hrst, hs⟩ | ⟨i, k, hbusy, hs⟩ | hs
  · exact .inl ⟨hrst, hrx hs⟩
  · right
    cases hs with
    | keeps session _ => exact absurd session.rxLast hne
    | opens a command waited session goesOn => exact .inl ⟨a, command ▸ waited, hrx session, goesOn⟩
    | connects a now _ _ session _ _ => exact absurd (hrx session) hne
    | disconnects r _ _ session _ => exact absurd (hrx session) hne
    | sends c k _ _ _ session _ _ => exact absurd (hrx session) hne
    | accepts cap seq p command waited session ended ok =>
      subst command
      obtain ⟨-, -, -, hexp, haccept⟩ := (State.inv_busy_iff waited).1 hinv
      obtain ⟨hseq, -⟩ := haccept seq p rfl
      refine .inr ⟨cap, _, waited, ?_, ended, ok⟩
      rw [hrx session, hseq, hexp]
      exact lowSeq_zext8 _
  · exact absurd (hrx hs) hne

/-- Settles O19: the moves of the counters among everything a step can do to the Connection State. -/
theorem countersChangeOnlyWhereListed : Obligations.CountersChangeOnlyWhereListed := by
  unfold Obligations.CountersChangeOnlyWhereListed
  intro s t c h hne
  have hctr {σ : Session} (hσ : t.session = σ) : t.ctr = σ.ctr := congrArg Session.ctr hσ
  have hzero : Counters.get {} c = 0 := by cases c <;> rfl
  rcases step_session h with ⟨hrst, hs⟩ | ⟨i, k, hbusy, hs⟩ | hs
  · exact .inl ⟨by rw [hctr hs]; exact hzero, .inl hrst⟩
  · have hbump : ∀ {c' : Counter}, counts i c' = true → t.ctr = s.ctr.bump c' →
        ∃ i k, s.ustate = .busy i k ∧ counts i c = true ∧ t.ctr.get c = s.ctr.get c + 1 := by
      intro c' hlisted heq
      rw [heq, Counters.get_bump] at hne ⊢
      split at hne
      · rename_i hc
        subst hc
        exact ⟨i, k, hbusy, hlisted, if_pos rfl⟩
      · exact absurd rfl hne
    cases hs with
    | keeps session _ =>
      rcases session.ctr with heq | ⟨c', hlisted, heq⟩
      · exact absurd (congrArg (Counters.get · c) heq) hne
      · exact .inr (hbump hlisted heq)
    | opens a command waited session _ =>
      exact .inl ⟨by rw [hctr session]; exact hzero, .inr ⟨a, command ▸ waited⟩⟩
    | connects a now _ _ session _ _ => exact absurd (congrArg (Counters.get · c) (hctr session)) hne
    | disconnects r _ _ session _ => exact absurd (congrArg (Counters.get · c) (hctr session)) hne
    | sends c' k _ _ listed session _ _ => exact .inr (hbump listed (hctr session))
    | accepts cap seq p command _ session _ _ => exact .inr (hbump (c' := .acksSent) (command ▸ rfl) (hctr session))
  · exact absurd (congrArg (Counters.get · c) (hctr hs)) hne

/-- Settles O20: `exec_written` for the registers outside the Connection State, `exec_session` for those of it. -/
theorem registersAreWrittenOnlyByTheirCommands : Obligations.RegistersAreWrittenOnlyByTheirCommands := by
  unfold Obligations.RegistersAreWrittenOnlyByTheirCommands
  intro s t i h
  have hwritten := exec_written h
  refine ⟨fun hne => (hwritten .deadline).resolve_right hne,
    fun hne => (hwritten .transmit).resolve_right fun hs => ?_,
    fun hne => (hwritten .receive).resolve_right fun hs => ?_, fun hne => (hwritten .ack).resolve_right hne,
    fun hne => (hwritten .checksum).resolve_right hne, fun hne => (hwritten .locate).resolve_right fun hs => ?_,
    fun hne => (hwritten .tries).resolve_right hne, fun hne => (hwritten .expected).resolve_right hne, fun hne => ?_,
    fun hne => ?_⟩
  · obtain ⟨htxf, hlen⟩ := Prod.mk.inj hs
    exact hne.elim (· htxf) (· hlen)
  · obtain ⟨hrxf, hlen⟩ := Prod.mk.inj hs
    exact hne.elim (· hrxf) (· hlen)
  · obtain ⟨hneed, hcnt, hmax⟩ : t.locNeed = s.locNeed ∧ t.locCnt = s.locCnt ∧ t.locMax = s.locMax := by
      simpa [RegGroup.same] using hs
    exact hne.elim (· hneed) (Or.elim · (· hcnt) (· hmax))
  · exact (exec_session h).connStart hne
  · exact (exec_session h).ctr hne

end

section
/-! SUPPORT. What one step of a command takes from the environment and stores of it in `rxf`, from any state whatever
(spec/00_scope.md R10, spec/20_memory.md R61, R63): the one answer it waits for, and nothing after it. -/

namespace Sys2Proof.Machine

/-! ## The ports -/

/-- `RxRead()` takes one answer. -/
theorem Env.rxRead_rx (e : Env) : e.rxRead.2.rx = e.rx.tail := by
  unfold Env.rxRead; split <;> simp [*]

/-- `XOpen` and `XClose` take one answer. -/
theorem Env.ctrlAnswer_ctrl (e : Env) : e.ctrlAnswer.2.ctrl = e.ctrl.tail := by
  unfold Env.ctrlAnswer; split <;> simp [*]

/-- `Now()` takes one tick. -/
theorem Env.readNow_ticks (e : Env) : e.readNow.2.ticks = e.ticks.tail := by
  unfold Env.readNow; split <;> simp [*]

/-- `TxWrite` takes one answer of its own script and leaves the other scripts and the time. -/
theorem Env.txWrite_scripts {e e' : Env} {len : Nat} {a : TxAnswer} (h : e.txWrite len = .ok (a, e')) :
    e'.tx = e.tx.tail ∧ e'.rx = e.rx ∧ e'.ctrl = e.ctrl ∧ e'.ticks = e.ticks ∧ e'.now = e.now := by
  unfold Env.txWrite at h
  split at h
  · split at h <;> cases h
    simp [*]
  · cases h; simp [*]
  · cases h; simp [*]

/-! A position waits at one port. -/

theorem readsStream_only {k : Point} (h : readsStream k = true) :
    writesFrame k = false ∧ callsControl k = false ∧ readsTime k = false := by
  cases k <;> cases h <;> exact ⟨rfl, rfl, rfl⟩

theorem writesFrame_only {k : Point} (h : writesFrame k = true) :
    readsStream k = false ∧ callsControl k = false ∧ readsTime k = false := by
  cases k <;> cases h <;> exact ⟨rfl, rfl, rfl⟩

theorem callsControl_only {k : Point} (h : callsControl k = true) :
    readsStream k = false ∧ writesFrame k = false ∧ readsTime k = false := by
  cases k <;> cases h <;> exact ⟨rfl, rfl, rfl⟩

theorem readsTime_only {k : Point} (h : readsTime k = true) :
    readsStream k = false ∧ writesFrame k = false ∧ callsControl k = false := by
  cases k <;> cases h <;> exact ⟨rfl, rfl, rfl⟩

theorem State.waitsFor_idle {s : State} (h : s.ustate = .idle) (p : Point → Bool) : s.waitsFor p = false := by
  simp [State.waitsFor, h]

theorem State.waitsFor_busy {s : State} {i : Instr} {k : Point} (h : s.ustate = .busy i k) (p : Point → Bool) :
    s.waitsFor p = p k := by
  simp [State.waitsFor, h]

/-! ## What comes in -/

/-- What the environment will still answer, the time of the last reading, and what has been stored in `rxf`. -/
structure Inputs where
  rx : List RxAnswer
  tx : List TxAnswer
  ctrl : List CtrlAnswer
  ticks : List Time
  now : Time
  rxf : Memory

/-- The inputs of a state. -/
def State.inputs (s : State) : Inputs :=
  { rx := s.env.rx, tx := s.env.tx, ctrl := s.env.ctrl, ticks := s.env.ticks, now := s.env.now, rxf := s.rxf }

/-- The inputs a step of command `i` from `s` can end with: those of `s` after the answer it waits for. At acceptance
there is no answer, and the data operand may have been copied into `rxf` (R30). -/
inductive State.Takes (s : State) (i : Instr) : Inputs → Prop
  | accepts (idle : s.ustate = .idle) (m : Memory) : State.Takes s i { s.inputs with rxf := m }
  | writes (k : Point) (busy : s.ustate = .busy i k) (port : writesFrame k = true) {len : Nat} {a : TxAnswer} {e : Env}
      (answer : s.env.txWrite len = .ok (a, e)) : State.Takes s i (s.setEnv e).inputs
  | controls (k : Point) (busy : s.ustate = .busy i k) (port : callsControl k = true) :
      State.Takes s i (s.setEnv s.env.ctrlAnswer.2).inputs
  | reads (k : Point) (busy : s.ustate = .busy i k) (port : readsTime k = true) :
      State.Takes s i (s.setEnv s.env.readNow.2).inputs
  | locates (k : Point) (busy : s.ustate = .busy i k) {e : Env} {m : Memory} (effect : LocateEffect k s e m) :
      State.Takes s i { (s.setEnv e).inputs with rxf := m }

/-! ## What a command's own computation leaves alone

`P` says of the inputs what the step has taken so far. A response, an issue and every register write but those of
`Locate` and the operand copy leave the inputs as they are, so `P` of a state is `P` of the state after them by
unfolding. -/

/-- Where the answer is a next state, `P` holds of its inputs. -/
def nextHas (P : Inputs → Prop) : Out → Prop
  | .next t => P t.inputs
  | .fault _ => True
  | .refused _ => True

/-- A computation that takes nothing from the environment and stores nothing in `rxf`: whatever holds of the inputs
before it holds after it. -/
def TakesNothing (go : State → Out) : Prop := ∀ (P : Inputs → Prop) (u : State), P u.inputs → nextHas P (go u)

section
variable {P : Inputs → Prop} {u v : State} {go : State → Out}

theorem nextHas_orFault {α : Type} {x : Except Fault α} {go : α → Out} (hgo : ∀ a, x = .ok a → nextHas P (go a)) :
    nextHas P (orFault x go) := by
  cases x with
  | ok a => exact hgo a rfl
  | error f => trivial

theorem nextHas_needOperand {n : Len} (h : P u.inputs) (hgo : nextHas P (go u)) : nextHas P (u.needOperand n go) := by
  unfold State.needOperand
  split
  · exact h
  · exact hgo

theorem TakesNothing.needOperand (hgo : TakesNothing go) (n : Len) : TakesNothing (·.needOperand n go) :=
  fun P u h => nextHas_needOperand h (hgo P u h)

theorem TakesNothing.needConnected (hgo : TakesNothing go) : TakesNothing (·.needConnected go) := by
  intro P u h
  dsimp only [State.needConnected]
  split
  · exact hgo P u h
  · exact h

theorem TakesNothing.needBlock (hgo : TakesNothing go) (n : Len) : TakesNothing (·.needBlock n go) := by
  intro P u h
  dsimp only [State.needBlock]
  split
  · exact h
  · exact hgo P u h

theorem TakesNothing.nextAttempt (hgo : TakesNothing go) : TakesNothing (·.nextAttempt go) := by
  intro P u h
  dsimp only [State.nextAttempt]
  split
  · exact hgo P _ h
  · exact h

theorem recvAttempt_takesNothing (i : Instr) : TakesNothing (recvAttempt i) := fun _ _ h => h

theorem sendAttempt_takesNothing (i : Instr) : TakesNothing (sendAttempt i) := by
  refine fun P u h => nextHas_orFault fun t ht => ?_
  obtain ⟨bytes, -, rfl⟩ := except_map_eq_ok ht
  exact h

theorem callAck_takesNothing (i : Instr) (k : Point) (kind : AckKind) (seq : Byte) :
    TakesNothing fun s => orFault (s.callAck i k kind seq) .next := by
  intro P u h
  dsimp only
  rw [State.callAck_ok]
  exact h

theorem State.verify_inputs {len : Nat} {good : Bool} (h : u.verify len = .ok (good, v)) : v.inputs = u.inputs := by
  obtain ⟨acc, rfl⟩ := State.verify_frame h
  rfl

theorem State.encode_inputs {p : List Byte} {seq : Byte} (h : u.encode p seq = .ok (some v)) :
    v.inputs = u.inputs := by
  rcases Nat.lt_or_ge 253 p.length with hp | hp
  · cases (u.encode_tooLarge seq hp).symm.trans h
  · cases (u.encode_ok seq hp).symm.trans h
    rfl

/-- The operand copy writes `rxf`. -/
theorem State.loadRxf_inputs {n : Len} {d : List Byte} (h : u.loadRxf n d = .ok v) :
    ∃ m, v.inputs = { u.inputs with rxf := m } := by
  obtain ⟨w, hw, rfl⟩ := except_map_eq_ok h
  obtain ⟨m, rfl⟩ := State.memWriteAll_eq_ok hw
  exact ⟨m, rfl⟩

theorem encodeStart_takesNothing (a : Byte) (n : Len) (d : List Byte) : TakesNothing (encodeStart a n d) := by
  refine TakesNothing.needOperand (fun P u h => nextHas_orFault fun r hr => ?_) n
  cases r with
  | none => exact h
  | some v =>
    rw [← State.encode_inputs hr] at h
    exact nextHas_orFault fun _ _ => h

/-- The checks and the encoding both sends begin with. -/
theorem TakesNothing.sendChecked (hgo : TakesNothing go) (n : Len) (d : List Byte) :
    TakesNothing (sendChecked n d · go) := by
  refine .needOperand (.needConnected (.needBlock (fun P u h => nextHas_orFault fun r hr => ?_) n)) n
  cases r with
  | none => exact h
  | some v =>
    rw [← State.encode_inputs hr] at h
    exact hgo P v h

theorem sendReliableStart_takesNothing (n : Len) (d : List Byte) : TakesNothing (sendReliableStart n d) :=
  TakesNothing.sendChecked (fun P u => sendAttempt_takesNothing _ P (u.setTries 1)) n d

theorem csComputeStart_takesNothing (a b : Byte) (n : Len) (d : List Byte) : TakesNothing (csComputeStart a b n d) :=
  fun _ _ h => nextHas_needOperand h h

theorem locateStart_takesNothing (c : Len) (t : Time) : TakesNothing (locateStart c t) :=
  TakesNothing.needConnected fun _ _ h => h

theorem recvBasicStart_takesNothing (c : Len) : TakesNothing (recvBasicStart c) :=
  TakesNothing.needConnected fun _ _ h => h

theorem recvReliableStart_takesNothing (c : Len) : TakesNothing (recvReliableStart c) :=
  TakesNothing.needConnected fun _ _ h => h

theorem disconnectStart_takesNothing : TakesNothing disconnectStart :=
  TakesNothing.needConnected fun _ _ h => h

theorem getOptBlockStart_takesNothing : TakesNothing getOptBlockStart := fun _ _ h => h

theorem connectStart_takesNothing (a : Byte) : TakesNothing (connectStart a) := by
  intro P u h
  unfold connectStart
  split <;> exact h

/-! What follows `Locate`. -/

/-- A located frame is verified, and the command goes on with the verdict. -/
theorem nextHas_verify {len : Nat} {go : Bool × State → Out} (h : P u.inputs)
    (hgo : ∀ good v, P v.inputs → nextHas P (go (good, v))) : nextHas P (orFault (u.verify len) go) :=
  nextHas_orFault fun ⟨good, v⟩ hv => hgo good v (State.verify_inputs hv ▸ h)

theorem locateReturn_takesNothing (r : LocateResult) : TakesNothing (locateReturn r) := by
  intro P u h
  cases r with
  | frame len => exact nextHas_orFault fun _ _ => h
  | noFrame => exact h
  | transportErr x => exact h

theorem sendReturn_takesNothing (i : Instr) (r : LocateResult) : TakesNothing (sendReturn i r) := by
  have hagain := (sendAttempt_takesNothing i).nextAttempt
  intro P u h
  cases r with
  | transportErr x => exact h
  | noFrame => exact hagain P (u.inc .timeouts) h
  | frame len =>
    refine nextHas_verify h fun good v hv => ?_
    cases good with
    | false => exact hagain P (v.inc .badRcvd) hv
    | true =>
      refine nextHas_orFault fun ⟨st, aseq⟩ _ => ?_
      dsimp only
      split
      · exact hv
      · exact hagain P (v.inc _) hv

theorem recvBasicReturn_takesNothing (c : Len) (r : LocateResult) : TakesNothing (recvBasicReturn c r) := by
  intro P u h
  cases r with
  | transportErr x => exact h
  | noFrame => exact (recvAttempt_takesNothing _).nextAttempt P (u.inc .timeouts) h
  | frame len =>
    refine nextHas_verify h fun good v hv => ?_
    cases good with
    | false => exact hv
    | true => exact nextHas_orFault fun _ _ => hv

theorem recvGood_takesNothing (c : Len) (len : Nat) : TakesNothing (recvGood c len) := by
  refine fun P u h => nextHas_orFault fun ⟨p, seq⟩ _ => ?_
  have hack := fun k kind => callAck_takesNothing (.recvReliable c) k kind seq P u h
  dsimp only
  split
  · exact hack _ _
  · split <;> exact hack _ _

theorem recvReliableReturn_takesNothing (c : Len) (r : LocateResult) : TakesNothing (recvReliableReturn c r) := by
  intro P u h
  cases r with
  | transportErr x => exact h
  | noFrame => exact (recvAttempt_takesNothing _).nextAttempt P (u.inc .timeouts) h
  | frame len =>
    refine nextHas_verify h fun good v hv => ?_
    cases good with
    | false => exact nextHas_orFault fun e _ => callAck_takesNothing _ _ _ e P (v.inc .badRcvd) hv
    | true => exact recvGood_takesNothing c len P (v.inc .goodRcvd) hv

end

/-! ## The one answer of a step -/

/-- What a step of command `i` answers from `s` has taken what the command waits for, and nothing else. -/
def State.stepTakes (s : State) (i : Instr) (o : Out) : Prop := nextHas (s.Takes i) o

section
variable {s : State} {i : Instr} {k : Point}

/-- The answer of a write is taken, and then nothing. -/
theorem stepTakes_afterWrite {go : State → Out} (hbusy : s.ustate = .busy i k) (hk : writesFrame k = true) (len : Nat)
    (hgo : TakesNothing go) : s.stepTakes i (s.afterWrite len go) := by
  refine nextHas_orFault fun a ha => ?_
  obtain ⟨⟨ans, e⟩, he, rfl⟩ := except_map_eq_ok ha
  have htaken : s.Takes i (s.setEnv e).inputs := .writes k hbusy hk he
  cases ans with
  | err x => exact htaken
  | count n =>
    dsimp only
    split
    · exact htaken
    · exact hgo _ _ htaken

theorem stepTakes_afterAck {go : State → Out} (hbusy : s.ustate = .busy i k) (hk : writesFrame k = true)
    (kind : AckKind) (hgo : TakesNothing go) : s.stepTakes i (s.afterAck kind go) :=
  stepTakes_afterWrite hbusy hk ackLen fun P u => hgo P (u.inc (sentCounter kind))

/-- The answer `Locate` waits for is taken, and what follows its return takes nothing. -/
theorem stepTakes_runLocate {max : Len} {limit : Time} {go : LocateResult → State → Out} (hbusy : s.ustate = .busy i k)
    (hgo : ∀ r, TakesNothing (go r)) : s.stepTakes i (s.runLocate i max limit k go) := by
  refine nextHas_orFault fun r hr => ?_
  obtain ⟨e, dl, max', need, cnt, m, heffect, -, hform⟩ := locateStep_form hr
  have htaken : s.Takes i { (s.setEnv e).inputs with rxf := m } := .locates k hbusy heffect
  cases r with
  | waits t =>
    obtain ⟨k', q, -, -, rfl⟩ := hform
    exact htaken
  | returns res t =>
    obtain ⟨len, rfl, -⟩ := hform
    exact hgo res _ _ htaken

/-- A command's meaning takes what it waits for when its acceptance, which may store the data operand, takes nothing
and each resumption takes the one answer. -/
theorem stepTakes_running {start : State → Out} {resume : Point → State → Out}
    (hstart : ∀ u : State, (∀ m, s.Takes i { u.inputs with rxf := m }) → s.stepTakes i (start u))
    (hresume : ∀ k, s.ustate = .busy i k → s.stepTakes i (resume k s)) : s.stepTakes i (s.running i start resume) := by
  unfold State.running
  split
  · rename_i hidle
    exact hstart (s.setRspPending false) (.accepts hidle)
  · rename_i j k hbusy
    split
    · rename_i hj
      exact hresume k (hj ▸ hbusy)
    · trivial

/-- The same for a command that stores no data operand. -/
theorem TakesNothing.running {start : State → Out} {resume : Point → State → Out} (hstart : TakesNothing start)
    (hresume : ∀ k, s.ustate = .busy i k → s.stepTakes i (resume k s)) : s.stepTakes i (s.running i start resume) :=
  stepTakes_running (fun u h => hstart _ u (h u.rxf)) hresume

/-- A command that waits nowhere has only its acceptance. -/
theorem stepTakes_running_atOnce {start : State → Out}
    (hstart : ∀ u : State, (∀ m, s.Takes i { u.inputs with rxf := m }) → s.stepTakes i (start u)) :
    s.stepTakes i (s.running i start fun _ _ => .fault .strayPoint) :=
  stepTakes_running hstart fun _ _ => trivial

theorem TakesNothing.running_atOnce {start : State → Out} (hstart : TakesNothing start) :
    s.stepTakes i (s.running i start fun _ _ => .fault .strayPoint) :=
  hstart.running fun _ _ => trivial

/-- A command all of whose positions are in `Locate`. -/
theorem TakesNothing.running_locate {start : State → Out} {max : Len} {limit : Config → Time}
    {go : LocateResult → State → Out} (hstart : TakesNothing start) (hgo : ∀ r, TakesNothing (go r)) :
    s.stepTakes i (s.running i start fun k u => u.runLocate i max (limit u.cfg) k go) :=
  hstart.running fun _ hbusy => stepTakes_runLocate hbusy hgo

/-! ## Every command -/

theorem csVerifyStart_takes {n : Len} {d : List Byte} {u : State} (h : ∀ m, s.Takes i { u.inputs with rxf := m }) :
    s.stepTakes i (csVerifyStart n d u) := by
  refine nextHas_needOperand (h u.rxf) (nextHas_orFault fun v hv => ?_)
  obtain ⟨m, hm⟩ := State.loadRxf_inputs hv
  exact nextHas_verify (hm ▸ h m) fun _ _ hw => hw

theorem decodeStart_takes {n c : Len} {d : List Byte} {u : State} (h : ∀ m, s.Takes i { u.inputs with rxf := m }) :
    s.stepTakes i (decodeStart n d c u) := by
  refine nextHas_needOperand (h u.rxf) ?_
  split
  · exact h u.rxf
  · refine nextHas_orFault fun v hv => nextHas_orFault fun _ _ => ?_
    obtain ⟨m, hm⟩ := State.loadRxf_inputs hv
    exact (hm ▸ h m : s.Takes i v.inputs)

theorem setDeadlineResume_takes (t : Time) (hbusy : s.ustate = .busy i k) :
    s.stepTakes i (setDeadlineResume t k s) := by
  unfold setDeadlineResume
  split
  · exact .reads _ hbusy rfl
  · trivial

theorem isElapsedResume_takes (hbusy : s.ustate = .busy i k) : s.stepTakes i (isElapsedResume k s) := by
  unfold isElapsedResume
  split
  · exact .reads _ hbusy rfl
  · trivial

theorem connectResume_takes (a : Byte) (hbusy : s.ustate = .busy i k) : s.stepTakes i (connectResume a k s) := by
  unfold connectResume
  split
  · rw [State.ctrlAnswer_eq]
    cases s.env.ctrlAnswer.1 <;> exact .controls _ hbusy rfl
  · exact .reads _ hbusy rfl
  · trivial

theorem disconnectResume_takes (hbusy : s.ustate = .busy i k) : s.stepTakes i (disconnectResume k s) := by
  unfold disconnectResume
  split
  · exact .controls _ hbusy rfl
  · exact .reads _ hbusy rfl
  · trivial

theorem sendBasicResume_takes (hbusy : s.ustate = .busy i k) : s.stepTakes i (sendBasicResume k s) := by
  unfold sendBasicResume
  split
  · exact stepTakes_afterWrite hbusy rfl _ fun _ _ h => h
  · trivial

theorem sendReliableResume_takes (hbusy : s.ustate = .busy i k) : s.stepTakes i (sendReliableResume i k s) := by
  unfold sendReliableResume
  split
  · exact stepTakes_afterWrite hbusy rfl _ fun _ _ h => h
  · exact stepTakes_runLocate hbusy (sendReturn_takesNothing i)

theorem recvReliableResume_takes {c : Len} (hbusy : s.ustate = .busy (.recvReliable c) k) :
    s.stepTakes (.recvReliable c) (recvReliableResume c k s) := by
  unfold recvReliableResume
  split
  · exact stepTakes_afterAck hbusy rfl _ fun _ _ h => h
  · exact stepTakes_afterAck hbusy rfl _ (recvAttempt_takesNothing _).nextAttempt
  · exact stepTakes_runLocate hbusy (recvReliableReturn_takesNothing c)

theorem sendAckResume_takes (kind : AckKind) (hbusy : s.ustate = .busy i k) :
    s.stepTakes i (sendAckResume kind k s) := by
  unfold sendAckResume
  split
  · exact stepTakes_afterAck hbusy rfl _ fun _ _ h => h
  · trivial

end

/-- R10: every step of every command, from any state. -/
theorem exec_stepTakes (s : State) (i : Instr) : s.stepTakes i (exec i s) := by
  cases i with
  | csCompute a b n d => exact (csComputeStart_takesNothing a b n d).running_atOnce
  | csVerify n d => exact stepTakes_running_atOnce fun _ h => csVerifyStart_takes h
  | encode a n d => exact (encodeStart_takesNothing a n d).running_atOnce
  | decode n d c => exact stepTakes_running_atOnce fun _ h => decodeStart_takes h
  | locate c t =>
    exact (locateStart_takesNothing c t).running_locate (limit := fun _ => t) locateReturn_takesNothing
  | setDeadline t => exact TakesNothing.running (fun _ _ h => h) fun _ => setDeadlineResume_takes t
  | isElapsed => exact TakesNothing.running (fun _ _ h => h) fun _ => isElapsedResume_takes
  | connect a => exact (connectStart_takesNothing a).running fun _ => connectResume_takes a
  | disconnect => exact disconnectStart_takesNothing.running fun _ => disconnectResume_takes
  | sendBasic n d =>
    exact ((sendAttempt_takesNothing _).sendChecked n d).running fun _ => sendBasicResume_takes
  | sendReliable n d => exact (sendReliableStart_takesNothing n d).running fun _ => sendReliableResume_takes
  | recvBasic c =>
    exact (recvBasicStart_takesNothing c).running_locate (limit := (·.rxWait)) (recvBasicReturn_takesNothing c)
  | recvReliable c => exact (recvReliableStart_takesNothing c).running fun _ => recvReliableResume_takes
  | sendAck a kind => exact (callAck_takesNothing _ _ _ _).needConnected.running fun _ => sendAckResume_takes kind
  | getOptBlock => exact getOptBlockStart_takesNothing.running_atOnce

theorem exec_takes {s t : State} {i : Instr} (h : exec i s = .next t) : s.Takes i t.inputs := by
  have hi := exec_stepTakes s i
  rwa [h] at hi

/-! ## The ports after a step -/

section
variable {s t : State} {i : Instr}

/-- From IDLE to a state with the same scripts and the same time. -/
theorem State.consumesTo_idle (hidle : s.ustate = .idle) (hrx : t.env.rx = s.env.rx := by rfl)
    (htx : t.env.tx = s.env.tx := by rfl) (hctrl : t.env.ctrl = s.env.ctrl := by rfl)
    (hticks : t.env.ticks = s.env.ticks := by rfl) (hnow : t.env.now = s.env.now := by rfl) : s.consumesTo t := by
  constructor <;> simp [State.waitsFor_idle hidle, *]

/-- R10, R63: every answer takes from its own port. -/
theorem State.Takes.consumesTo (h : s.Takes i t.inputs) : s.consumesTo t := by
  suffices ∀ I : Inputs, s.Takes i I →
      I.rx = (if s.waitsFor readsStream then s.env.rx.tail else s.env.rx) ∧
      I.tx = (if s.waitsFor writesFrame then s.env.tx.tail else s.env.tx) ∧
      I.ctrl = (if s.waitsFor callsControl then s.env.ctrl.tail else s.env.ctrl) ∧
      I.ticks = (if s.waitsFor readsTime then s.env.ticks.tail else s.env.ticks) ∧
      (s.waitsFor readsTime = false → I.now = s.env.now) by
    obtain ⟨hrx, htx, hctrl, hticks, hnow⟩ := this _ h
    exact ⟨hrx, htx, hctrl, hticks, hnow⟩
  intro I hI
  cases hI with
  | accepts idle m => simp [State.waitsFor_idle idle, State.inputs]
  | writes k busy port answer =>
    obtain ⟨htx, hrx, hctrl, hticks, hnow⟩ := Env.txWrite_scripts answer
    simp [State.waitsFor_busy busy, port, writesFrame_only port, State.inputs, htx, hrx, hctrl, hticks, hnow]
  | controls k busy port =>
    simp [State.waitsFor_busy busy, port, callsControl_only port, State.inputs, Env.ctrlAnswer_ctrl,
      Env.ctrlAnswer_frame]
  | reads k busy port =>
    simp [State.waitsFor_busy busy, port, readsTime_only port, State.inputs, Env.readNow_ticks, Env.readNow_frame]
  | locates k busy effect =>
    rcases effect.env with ⟨port, -, rfl⟩ | ⟨port, -, rfl⟩
    · simp [State.waitsFor_busy busy, port, readsStream_only port, State.inputs, Env.rxRead_rx, Env.rxRead_frame]
    · simp [State.waitsFor_busy busy, port, readsTime_only port, State.inputs, Env.readNow_ticks, Env.readNow_frame]

theorem exec_consumesTo (h : exec i s = .next t) : s.consumesTo t := (exec_takes h).consumesTo

/-- A turn of the machine takes what the running or accepted command takes; the host's moves take nothing. -/
theorem State.Turn.consumesTo (h : s.Turn t) : s.consumesTo t := by
  cases h with
  | runs i k _ ran => exact exec_consumesTo ran
  | takes idle _ taken => subst taken; exact State.consumesTo_idle idle
  | waits idle _ _ same => subst same; exact State.consumesTo_idle idle
  | accepts c rest i _ _ _ _ ran =>
    obtain ⟨hrx, htx, hctrl, hticks, hnow⟩ := exec_consumesTo ran
    exact ⟨hrx, htx, hctrl, hticks, hnow⟩
  | illegal c rest op idle _ _ _ answered => subst answered; exact State.consumesTo_idle idle

/-- R61, R62, R133: what the inputs a step of a running command has taken leave in `rxf`. -/
theorem State.Takes.rxf {k : Point} {I : Inputs} (h : s.Takes i I) (hbusy : s.ustate = .busy i k) :
    I.rxf = s.rxf ∨
      (readsStream k = true ∧ ∃ b, s.env.rxRead.1 = .byte b ∧ I.rxf = s.rxf.put (locateOffset k s) b) := by
  cases h with
  | accepts idle m => cases idle.symm.trans hbusy
  | writes k' _ _ _ => exact .inl rfl
  | controls k' _ _ => exact .inl rfl
  | reads k' _ _ => exact .inl rfl
  | locates k' busy effect =>
    cases busy.symm.trans hbusy
    exact effect.mem

end

end Sys2Proof.Machine
end

section
open Sys2Proof Sys2Proof.Machine

/-- Settles O21: a command takes the one answer it waits for, and nothing else of the machine takes any; reset keeps the
environment but for its own level. -/
theorem onlyReadsConsumeTheStream : Obligations.OnlyReadsConsumeTheStream := by
  unfold Obligations.OnlyReadsConsumeTheStream
  refine ⟨fun s t i h => exec_consumesTo h, fun s t h => ?_⟩
  rcases step_cases h with ⟨rest, hrst, rfl⟩ | ⟨hrst, hturn⟩
  · exact ⟨fun hne => absurd (by rw [hrst]; rfl) hne, fun _ => ⟨rfl, rfl, rfl, rfl, rfl⟩⟩
  · obtain ⟨hrx, htx, hctrl, hticks, hnow⟩ := hturn.consumesTo
    exact ⟨fun _ => ⟨hrx, htx, hctrl, hticks, hnow⟩, fun heq => absurd heq hrst⟩

/-- Settles O39: `rxf` holds what it held, or the byte of the read besides, at its offset. -/
theorem locateWritesOneByteOfRxf : Obligations.LocateWritesOneByteOfRxf := by
  unfold Obligations.LocateWritesOneByteOfRxf
  intro s t i k _ hbusy h
  have hrxf : t.rxf = s.rxf ∨
      (readsStream k = true ∧ ∃ b, s.env.rxRead.1 = .byte b ∧ t.rxf = s.rxf.put (locateOffset k s) b) :=
    (exec_takes h).rxf hbusy
  rcases hrxf with hsame | ⟨hreads, b, hread, hput⟩
  · rw [hsame]
    exact ⟨fun _ _ => rfl, fun b hb hne => absurd hb hne⟩
  · rw [hput]
    refine ⟨fun j hj => ?_, fun b' hb' _ => ?_⟩
    · have hne : j ≠ locateOffset k s := hj.resolve_left (by simp [hreads])
      exact Memory.get?_put_other _ hne b
    · rw [Memory.get?_put_same] at hb'
      rw [hread, Option.some.inj hb']

end

section
/-! SUPPORT. The decoder and the encoder (spec/30_encoding.md R84, R87, R89, R91): the data field of a record, what
decoding turns on, and that it takes back what the encoder wrote. -/

namespace Sys2Proof

open Machine

section
variable {c c' : Command}

/-! ## The data field -/

/-- R91: a record that carries its `n` bytes gives `d[0..n-1]`. -/
theorem dataField_ok (h : c.n.toNat ≤ c.d.length) : dataField c = .ok (c.d.take c.n.toNat) := by
  simp [dataField, Nat.not_lt.2 h]

/-- R84: of a well-formed data operand every byte is taken. -/
theorem dataField_map_of_dataWf {f : List Byte → Instr} (h : dataWf c.n c.d = true) :
    (dataField c).map f = .ok (f c.d) := by
  simp only [dataWf, Bool.and_eq_true, Bool.or_eq_true, decide_eq_true_eq] at h
  obtain ⟨hle, hpresent⟩ := h
  rw [dataField, if_neg (by omega), List.take_of_length_le hle]
  rfl

/-- R91: a command decoded from the data field has `d[0..n-1]`, whatever the record. -/
theorem dataField_map_eq_ok {f : List Byte → Instr} {i : Instr} (h : (dataField c).map f = .ok i) :
    i = f (c.d.take c.n.toNat) := by
  unfold dataField at h
  split at h
  · cases h
  · cases h; rfl

/-- R89: the data field turns on `n` and `d[0..n-1]` only. -/
theorem dataField_map_congr {f : List Byte → Instr} {i : Instr} (hn : c.n = c'.n)
    (hd : c.d.take c.n.toNat = c'.d.take c.n.toNat) (h : (dataField c).map f = .ok i) :
    (dataField c').map f = .ok i := by
  have hlen := congrArg List.length hd
  simp only [List.length_take] at hlen
  unfold dataField at h ⊢
  split at h
  · cases h
  · rw [← hn, if_neg (by omega), ← hd]
    exact h

/-! ## The kind of an acknowledgement -/

/-- R174: the `b` operand of a kind names that kind. -/
theorem kindField_kindByte (k : AckKind) : kindField (kindByte k) = k := by
  cases k <;> rfl

/-- R174: only `b[0]` names a kind. -/
theorem kindField_congr {b b' : Byte} (h : b.getLsbD 0 = b'.getLsbD 0) : kindField b = kindField b' := by
  simp only [kindField, h]

theorem getLsbD_kindByte_kindField (b : Byte) : (kindByte (kindField b)).getLsbD 0 = b.getLsbD 0 := by
  cases h : b.getLsbD 0 <;> simp only [kindField, h] <;> rfl

/-! ## Decoding -/

/-- R87, R91: decoding takes back what the encoder wrote. -/
theorem decodeCommand_encodeInstr {i : Instr} (h : i.wf = true) : decodeCommand (encodeInstr i) = .ok i := by
  cases i with
  | csCompute | csVerify | encode | decode | sendBasic | sendReliable =>
    exact dataField_map_of_dataWf h
  | sendAck a k => simp [decodeCommand, encodeInstr, kindField_kindByte]
  | locate | setDeadline | isElapsed | connect | disconnect | recvBasic | recvReliable | getOptBlock => rfl

/-- R87, R91: the record of a decoded command has the opcode and the operands of the record it was decoded from. -/
theorem encodeInstr_of_decodeCommand {i : Instr} (h : decodeCommand c = .ok i) :
    (encodeInstr i).op = c.op ∧ sameOperands c (encodeInstr i) := by
  unfold decodeCommand at h
  split at h <;> rename_i hop
  case h_1 | h_2 | h_3 | h_4 | h_10 | h_11 =>
    obtain rfl := dataField_map_eq_ok h
    exact ⟨BitVec.eq_of_toNat_eq hop.symm, by simp [sameOperands, hop, encodeInstr]⟩
  case h_14 =>
    cases h
    exact ⟨BitVec.eq_of_toNat_eq hop.symm,
      by simp only [sameOperands, hop, encodeInstr, getLsbD_kindByte_kindField, and_self]⟩
  case h_16 => cases h
  all_goals
    cases h
    exact ⟨BitVec.eq_of_toNat_eq hop.symm, by simp [sameOperands, hop, encodeInstr]⟩

/-- R89: what a record decodes to turns on its opcode and the operands of its command only. -/
theorem decodeCommand_congr {i : Instr} (hop : c.op = c'.op) (hsame : sameOperands c c')
    (h : decodeCommand c = .ok i) : decodeCommand c' = .ok i := by
  unfold decodeCommand at h ⊢
  rw [← hop]
  split at h <;> rename_i hcode <;> simp only [sameOperands, hcode] at hsame ⊢
  case h_1 =>
    obtain ⟨ha, hb, hn, hd⟩ := hsame
    rw [← ha, ← hb, ← hn]
    exact dataField_map_congr hn hd h
  case h_3 =>
    obtain ⟨ha, hn, hd⟩ := hsame
    rw [← ha, ← hn]
    exact dataField_map_congr hn hd h
  case h_4 =>
    obtain ⟨hn, hc, hd⟩ := hsame
    rw [← hn, ← hc]
    exact dataField_map_congr hn hd h
  case h_2 | h_10 | h_11 =>
    obtain ⟨hn, hd⟩ := hsame
    rw [← hn]
    exact dataField_map_congr hn hd h
  case h_5 =>
    obtain ⟨hc, ht⟩ := hsame
    rw [← hc, ← ht]
    exact h
  case h_14 =>
    obtain ⟨ha, hkind⟩ := hsame
    rw [← ha, ← kindField_congr hkind]
    exact h
  case h_6 | h_8 | h_12 | h_13 => rw [← hsame]; exact h
  case h_7 | h_9 | h_15 => exact h
  case h_16 => cases h

/-- R87: a record with an assigned opcode that carries its `n` bytes is a command. -/
theorem decodeCommand_assigned (hop : 1 ≤ c.op.toNat ∧ c.op.toNat ≤ 0x0F) (hd : c.n.toNat ≤ c.d.length) :
    ∃ i, decodeCommand c = .ok i := by
  unfold decodeCommand
  split
  case h_1 | h_2 | h_3 | h_4 | h_10 | h_11 => exact ⟨_, by rw [dataField_ok hd]; rfl⟩
  case h_16 => simp only [imp_false] at *; omega
  all_goals exact ⟨_, rfl⟩

/-- R89: the opcodes 0x00 and 0x10 to 0xFF are illegal, whatever the other fields. -/
theorem decodeCommand_unassigned (hop : c.op.toNat = 0x00 ∨ 0x10 ≤ c.op.toNat) :
    decodeCommand c = .error (.illegalOpcode c.op) := by
  unfold decodeCommand
  split
  case h_16 => rfl
  all_goals omega

end

end Sys2Proof

namespace Sys2Proof.Machine

/-- `raise` writes the response registers only, and ends in IDLE. -/
theorem State.raise_eq_answered (s : State) (st : Status) : s.raise st = s.answered { status := st } := rfl

/-- R89: in IDLE with no response waiting a record with an illegal opcode is answered at once. -/
theorem stepRunning_illegal {s : State} {c : Command} {rest : List Command} {op : Byte} (hidle : s.ustate = .idle)
    (hpending : s.rspPending = false) (hcmds : s.env.cmds = c :: rest)
    (hdecode : decodeCommand c = .error (.illegalOpcode op)) :
    stepRunning s = .next ((s.setEnv { s.env with cmds := rest }).answered { status := .illegalOpcode }) := by
  have hdrop : s.dropCommand = s.setEnv { s.env with cmds := rest } := by
    rw [State.dropCommand, hcmds, List.tail_cons]
  simp only [stepRunning, acceptNext, hidle, hpending, hcmds, hdecode, hdrop, State.answerIllegal,
    State.raise_eq_answered]

end Sys2Proof.Machine
end

section
open Sys2Proof Sys2Proof.Machine

/-- Settles O1: the data operand of a well-formed command is taken whole, and every other operand is its field. -/
theorem decodeInvertsEncode : Obligations.DecodeInvertsEncode := by
  unfold Obligations.DecodeInvertsEncode
  intro i hwf
  exact decodeCommand_encodeInstr hwf

/-- Settles O2: by the opcode, each field of the decoded command is the record's. -/
theorem decodedCommandsKeepTheirFields : Obligations.DecodedCommandsKeepTheirFields := by
  unfold Obligations.DecodedCommandsKeepTheirFields
  intro c i h
  exact ⟨decodeCommand_wf h, encodeInstr_of_decodeCommand h⟩

/-- Settles O3: the decoder rejects an unassigned opcode by name, which the step answers, and looks at no field that its
command does not read. -/
theorem unassignedAndIgnoredEncodings : Obligations.UnassignedAndIgnoredEncodings := by
  unfold Obligations.UnassignedAndIgnoredEncodings
  constructor
  · intro s c rest hidle hpending hrst hcmds hop
    rw [step_of_not_reset hrst,
      stepRunning_illegal (s := s.setRst s.env.rst.tail) hidle hpending hcmds (decodeCommand_unassigned hop)]
    rfl
  · intro c c' hop hsame
    exact ⟨fun i h => decodeCommand_congr hop hsame h, decodeCommand_assigned⟩

/-- Settles O4: each record is evaluated. -/
theorem wordsOfTheEncodingTable : Obligations.WordsOfTheEncodingTable := by
  unfold Obligations.WordsOfTheEncodingTable
  exact ⟨rfl, rfl, rfl, rfl, rfl, rfl, rfl⟩

end

section
/-! SUPPORT. A command's meaning from its acceptance (spec/30_encoding.md R94): the one command the port admits, and the
checks it is met with there, in their order (spec/60_exceptions.md R222, R223). -/

namespace Sys2Proof.Machine

/-! ## Acceptance -/

/-- What each command does from acceptance. -/
def startOf : Instr → State → Out
  | .csCompute a b n d => csComputeStart a b n d
  | .csVerify n d => csVerifyStart n d
  | .encode a n d => encodeStart a n d
  | .decode n d c => decodeStart n d c
  | .locate c t => locateStart c t
  | .setDeadline t => setDeadlineStart t
  | .isElapsed => isElapsedStart
  | .connect a => connectStart a
  | .disconnect => disconnectStart
  | .sendBasic n d => sendBasicStart n d
  | .sendReliable n d => sendReliableStart n d
  | .recvBasic c => recvBasicStart c
  | .recvReliable c => recvReliableStart c
  | .sendAck a kind => sendAckStart a kind
  | .getOptBlock => getOptBlockStart

/-- What each command does after each primitive it waits on. -/
def resumeOf : Instr → Point → State → Out
  | .csCompute _ _ _ _ | .csVerify _ _ | .encode _ _ _ | .decode _ _ _ | .getOptBlock => fun _ _ => .fault .strayPoint
  | .locate c t => fun k s => s.runLocate (.locate c t) c t k locateReturn
  | .setDeadline t => setDeadlineResume t
  | .isElapsed => isElapsedResume
  | .connect a => connectResume a
  | .disconnect => disconnectResume
  | .sendBasic _ _ => sendBasicResume
  | .sendReliable n d => sendReliableResume (.sendReliable n d)
  | .recvBasic c => fun k s => s.runLocate (.recvBasic c) rxFrameMax s.cfg.rxWait k (recvBasicReturn c)
  | .recvReliable c => recvReliableResume c
  | .sendAck _ kind => sendAckResume kind

/-- Every command's meaning begins at the command port. -/
theorem exec_eq_running (i : Instr) (s : State) : exec i s = s.running i (startOf i) (resumeOf i) := by
  cases i <;> rfl

/-- In IDLE a command is accepted, with the last response taken. -/
theorem exec_idle {s : State} (h : s.ustate = .idle) (i : Instr) : exec i s = startOf i (s.setRspPending false) := by
  rw [exec_eq_running, State.running_idle h]

/-- A running command goes on from where it waits. -/
theorem exec_busy {s : State} {i : Instr} {k : Point} (h : s.ustate = .busy i k) : exec i s = resumeOf i k s := by
  rw [exec_eq_running, State.running_busy h]

/-- R94: while a command runs no other has a move. -/
theorem exec_portBusy {s : State} {i j : Instr} {k : Point} (h : s.ustate = .busy i k) (hne : j ≠ i) :
    exec j s = .fault .portBusy := by
  rw [exec_eq_running, State.running_other h hne.symm]

/-- No step of a command takes a record, a response or a reset level. -/
theorem exec_hostPort {s t : State} {i : Instr} (h : exec i s = .next t) :
    t.env.cmds = s.env.cmds ∧ t.env.taken = s.env.taken ∧ t.env.rst = s.env.rst := by
  obtain ⟨u, ⟨-, -, -, henv⟩, ⟨r, rfl⟩ | ⟨k, q, rfl⟩⟩ := exec_next_cases h <;>
    exact ⟨henv.cmds, henv.taken, henv.rst⟩

/-! ## What the checks answer -/

/-- From `s` a command answers its first cause at once, or, where there is none, executes: it takes a next state, with
no error. -/
def State.checksTo (s : State) : Option Status → Out → Prop
  | some st, o => o = .next (s.raise st)
  | none, o => ∃ t, o = .next t ∧ (t.ustate = .idle → t.rsp.status = .ok)

section
variable {s : State} {c : Option Status} {go : State → Out}

/-! How a command that executes can end its first step. -/

theorem State.checksTo_responds (u : State) {r : Response} (hr : r.status = .ok) :
    s.checksTo none (.next (u.respond r)) :=
  ⟨_, rfl, fun _ => hr⟩

theorem State.checksTo_issues (u : State) (i : Instr) (k : Point) (q : Request) :
    s.checksTo none (.next (u.issue i k q)) :=
  ⟨_, rfl, nofun⟩

/-! The checks, each before the causes that come after it. -/

theorem State.checksTo_needOperand {n : Len} (hgo : n.toNat ≤ 257 → s.checksTo c (go s)) :
    s.checksTo (if 257 < n.toNat then some .badOperand else c) (s.needOperand n go) := by
  rcases Nat.lt_or_ge 257 n.toNat with hn | hn
  · rw [if_pos hn, State.needOperand_bad hn]; rfl
  · rw [if_neg (Nat.not_lt.2 hn), State.needOperand_ok hn]; exact hgo hn

theorem State.checksTo_needConnected (hgo : s.checksTo c (go s)) :
    s.checksTo (if s.phase = .disconnected then some .notConnected else c) (s.needConnected go) := by
  cases hp : s.phase with
  | disconnected => rw [if_pos rfl, State.needConnected_bad hp]; rfl
  | connected => rw [if_neg nofun, State.needConnected_ok hp]; exact hgo

theorem State.checksTo_needBlock {n : Len} (hgo : n.toNat ≤ s.cfg.maxBlock → s.checksTo c (go s)) :
    s.checksTo (if s.cfg.maxBlock < n.toNat then some .payloadTooLarge else c) (s.needBlock n go) := by
  rcases Nat.lt_or_ge s.cfg.maxBlock n.toNat with hn | hn
  · rw [if_pos hn, State.needBlock_bad hn]; rfl
  · rw [if_neg (Nat.not_lt.2 hn), State.needBlock_ok hn]; exact hgo hn

/-! ## The commands of the units -/

theorem csComputeStart_checksTo (a b : Byte) (n : Len) (d : List Byte) :
    s.checksTo (if 257 < n.toNat then some .badOperand else none) (csComputeStart a b n d s) :=
  State.checksTo_needOperand fun _ => State.checksTo_responds _ rfl

theorem csVerifyStart_checksTo {n : Len} {d : List Byte} (hd : dataWf n d = true) :
    s.checksTo (if 257 < n.toNat then some .badOperand else none) (csVerifyStart n d s) := by
  refine State.checksTo_needOperand fun hn => ?_
  have hlen := dataWf_length hd hn
  rw [State.loadRxf_ok _ _ (hlen ▸ hn), orFault_ok, hlen,
    State.verify_ok (f := d) (Memory.holds_putAll _ _ _) (hlen ▸ hn)]
  exact State.checksTo_responds _ rfl

/-- The frame that `Encode` has left in `txf` is read back whole. -/
theorem State.encoded_memReadAll (s : State) (seq : Byte) {p : List Byte} (h : p.length ≤ 253) :
    (s.encoded p seq).memReadAll .txf 0 (s.encoded p seq).txfLen.toNat = .ok (frameBytes s.cfg.marker seq p) := by
  have hlen : (s.encoded p seq).txfLen.toNat = (frameBytes s.cfg.marker seq p).length := by
    rw [frameBytes_length]; exact lenOf_frame h
  rw [hlen]
  exact State.memReadAll_ok (by rw [frameBytes_length]; simp only [BufName.size]; omega) (s.encoded_holds p seq)

theorem encodeStart_checksTo (a : Byte) {n : Len} {d : List Byte} (hd : dataWf n d = true) :
    s.checksTo (if 257 < n.toNat then some .badOperand else if 253 < n.toNat then some .payloadTooLarge else none)
      (encodeStart a n d s) := by
  refine State.checksTo_needOperand fun hn => ?_
  have hlen := dataWf_length hd hn
  rcases Nat.lt_or_ge 253 d.length with hmax | hmax
  · rw [if_pos (hlen ▸ hmax), State.encode_tooLarge _ _ hmax]
    rfl
  · rw [if_neg (by omega), State.encode_ok _ _ hmax, orFault_ok]
    dsimp only
    rw [s.encoded_memReadAll a hmax]
    exact State.checksTo_responds _ rfl

theorem decodeStart_checksTo {n : Len} {d : List Byte} (hd : dataWf n d = true) (cap : Len) :
    s.checksTo (if 257 < n.toNat then some .badOperand else if n.toNat < 4 then some .frameLength else none)
      (decodeStart n d cap s) := by
  refine State.checksTo_needOperand fun hn => ?_
  have hlen := dataWf_length hd hn
  split
  · rfl
  · rw [State.loadRxf_ok _ _ (hlen ▸ hn), orFault_ok, hlen,
      State.decode_ok (f := d) (Memory.holds_putAll _ _ _) (by omega) (by omega)]
    exact State.checksTo_responds _ rfl

/-! ## The commands of the engine -/

theorem connectStart_checksTo (a : Byte) :
    s.checksTo (if s.phase = .connected then some .alreadyConnected else none) (connectStart a s) := by
  unfold connectStart
  split
  · rfl
  · exact State.checksTo_issues _ _ _ _

theorem locateStart_checksTo (cap : Len) (t : Time) :
    s.checksTo (if s.phase = .disconnected then some .notConnected else none) (locateStart cap t s) :=
  State.checksTo_needConnected (State.checksTo_issues _ _ _ _)

theorem disconnectStart_checksTo :
    s.checksTo (if s.phase = .disconnected then some .notConnected else none) (disconnectStart s) :=
  State.checksTo_needConnected (State.checksTo_issues _ _ _ _)

theorem recvBasicStart_checksTo (cap : Len) :
    s.checksTo (if s.phase = .disconnected then some .notConnected else none) (recvBasicStart cap s) :=
  State.checksTo_needConnected (State.checksTo_issues _ _ _ _)

theorem recvReliableStart_checksTo (cap : Len) :
    s.checksTo (if s.phase = .disconnected then some .notConnected else none) (recvReliableStart cap s) :=
  State.checksTo_needConnected (State.checksTo_issues _ _ _ _)

/-- Past its checks a send's frame stands in `txf`, and the first attempt offers it. -/
theorem sendChecked_checksTo {n : Len} {d : List Byte} (hd : dataWf n d = true)
    (hgo : ∀ u : State, u.txf.holds 0 (frameBytes s.cfg.marker (zext8 s.txSeq) d) = true →
      u.txfLen.toNat = d.length + 4 → d.length ≤ 253 → s.checksTo none (go u)) :
    s.checksTo (if 257 < n.toNat then some .badOperand else if s.phase = .disconnected then some .notConnected else
      if s.cfg.maxBlock < n.toNat then some .payloadTooLarge else none) (sendChecked n d s go) := by
  refine State.checksTo_needOperand fun hn => State.checksTo_needConnected (State.checksTo_needBlock fun hblock => ?_)
  have hlen := dataWf_length hd hn
  have hmax : d.length ≤ 253 := by have := s.cfg.valid_iff.2.2.1; omega
  rw [State.encode_ok _ _ hmax]
  exact hgo _ (s.encoded_holds _ _) (lenOf_frame hmax) hmax

theorem sendAttempt_checksTo {u : State} {i : Instr} {marker seq : Byte} {d : List Byte}
    (hframe : u.txf.holds 0 (frameBytes marker seq d) = true) (hlen : u.txfLen.toNat = d.length + 4)
    (hmax : d.length ≤ 253) : s.checksTo none (sendAttempt i u) := by
  rw [sendAttempt, State.callFrameWrite_ok hframe (by rw [frameBytes_length, hlen])
    (by rw [frameBytes_length]; omega)]
  exact State.checksTo_issues _ _ _ _

theorem sendBasicStart_checksTo {n : Len} {d : List Byte} (hd : dataWf n d = true) :
    s.checksTo (if 257 < n.toNat then some .badOperand else if s.phase = .disconnected then some .notConnected else
      if s.cfg.maxBlock < n.toNat then some .payloadTooLarge else none) (sendBasicStart n d s) :=
  sendChecked_checksTo hd fun _ hframe hlen hmax => sendAttempt_checksTo hframe hlen hmax

theorem sendReliableStart_checksTo {n : Len} {d : List Byte} (hd : dataWf n d = true) :
    s.checksTo (if 257 < n.toNat then some .badOperand else if s.phase = .disconnected then some .notConnected else
      if s.cfg.maxBlock < n.toNat then some .payloadTooLarge else none) (sendReliableStart n d s) :=
  sendChecked_checksTo hd fun u hframe hlen hmax => sendAttempt_checksTo (u := u.setTries 1) hframe hlen hmax

theorem sendAckStart_checksTo (a : Byte) (kind : AckKind) :
    s.checksTo (if s.phase = .disconnected then some .notConnected else none) (sendAckStart a kind s) := by
  refine State.checksTo_needConnected ?_
  rw [State.callAck_ok]
  exact State.checksTo_issues _ _ _ _

/-- R223: from acceptance every well-formed command answers the first cause of the list, or executes. -/
theorem startOf_checksTo {i : Instr} (h : i.wf = true) : s.checksTo (firstCause i s) (startOf i s) := by
  cases i with
  | csCompute a b n d => simpa [startOf, firstCause, dataLength, needsConnection] using csComputeStart_checksTo a b n d
  | csVerify n d => simpa [startOf, firstCause, dataLength, needsConnection] using csVerifyStart_checksTo h
  | encode a n d => simpa [startOf, firstCause, dataLength, needsConnection] using encodeStart_checksTo a h
  | decode n d cap => simpa [startOf, firstCause, dataLength, needsConnection] using decodeStart_checksTo h cap
  | locate cap t => simpa [startOf, firstCause, dataLength, needsConnection] using locateStart_checksTo cap t
  | setDeadline | isElapsed => exact State.checksTo_issues _ _ _ _
  | connect a => simpa [startOf, firstCause, dataLength, needsConnection] using connectStart_checksTo a
  | disconnect => simpa [startOf, firstCause, dataLength, needsConnection] using disconnectStart_checksTo
  | sendBasic n d => simpa [startOf, firstCause, dataLength, needsConnection] using sendBasicStart_checksTo h
  | sendReliable n d => simpa [startOf, firstCause, dataLength, needsConnection] using sendReliableStart_checksTo h
  | recvBasic cap => simpa [startOf, firstCause, dataLength, needsConnection] using recvBasicStart_checksTo cap
  | recvReliable cap => simpa [startOf, firstCause, dataLength, needsConnection] using recvReliableStart_checksTo cap
  | sendAck a kind => simpa [startOf, firstCause, dataLength, needsConnection] using sendAckStart_checksTo a kind
  | getOptBlock => exact State.checksTo_responds _ rfl

end

end Sys2Proof.Machine
end

section
open Sys2Proof Sys2Proof.Machine

/-- Settles O7: another command is stuck at the port, and a step's environment has at most answered. -/
theorem oneCommandAtATime : Obligations.OneCommandAtATime := by
  unfold Obligations.OneCommandAtATime
  intro s i k hbusy
  exact ⟨fun j hne => exec_portBusy hbusy hne, fun t h => exec_hostPort h⟩

/-- Settles O23: the command is accepted, and its checks stand in the order of the list. -/
theorem checksAreMadeInOrder : Obligations.ChecksAreMadeInOrder := by
  unfold Obligations.ChecksAreMadeInOrder
  intro i s hwf hidle
  have hchecks : (s.setRspPending false).checksTo (firstCause i s) (exec i s) := by
    rw [exec_idle hidle]
    exact startOf_checksTo hwf
  constructor
  · intro st hcause
    rw [hcause] at hchecks
    exact hchecks
  · intro hnone
    rw [hnone] at hchecks
    exact hchecks

end

section
/-! SUPPORT. What LOCATE answers when its procedure ends (spec/41_frame_codec.md R134, R136, spec/30_encoding.md
R83). -/

namespace Sys2Proof.Machine

/-- A byte of a string that stands in a buffer is the buffer's. -/
theorem Memory.getD_of_holds {m : Memory} {f : List Byte} {i : Nat} {v : Byte} (hf : m.holds 0 f = true)
    (hi : i < f.length) (hv : m.get? i = some v) : f.getD i 0 = v := by
  have hget := (Memory.holds_iff m 0 f).1 hf i hi
  rw [Nat.zero_add, hv] at hget
  rw [List.getD_eq_getElem _ _ hi]
  exact (Option.some.inj hget).symm

/-- R136: LOCATE answers OK with the bytes of the located frame, and with nothing else. -/
theorem locateReturn_ok {r : LocateResult} {s t : State} (h : locateReturn r s = .next t)
    (hok : t.rsp.status = .ok) :
    ∃ f : List Byte, r = .frame f.length ∧ s.rxf.holds 0 f = true ∧ t = s.respond { n := lenField f, d := f } := by
  cases r with
  | transportErr x => cases h; cases hok
  | noFrame => cases h; cases hok
  | frame len =>
    obtain ⟨f, hread, hnext⟩ := orFault_eq_next h
    obtain ⟨rfl, hholds⟩ := Memory.readAll_eq_ok hread
    cases hnext
    exact ⟨f, rfl, hholds, rfl⟩

/-- An OK of LOCATE from a safe state is the return of its procedure. -/
theorem execLocate_ok {s t : State} {c : Len} {lim : Time} {k : Point} (h : s.Inv)
    (hbusy : s.ustate = .busy (.locate c lim) k) (hexec : exec (.locate c lim) s = .next t) (hidle : t.ustate = .idle) :
    ∃ r u, (LocateStep.returns r u).ok (.locate c lim) s ∧ locateReturn r u = .next t := by
  obtain ⟨hruns, hk, hloc, -⟩ := (State.inv_busy_iff hbusy).1 h
  obtain ⟨step, hstep, hok⟩ := locateStep_ok lim hk hloc hruns.regs.rxfWf
  have hrun : exec (.locate c lim) s =
      s.runLocate (.locate c lim) (maxSizeOf (.locate c lim)) lim k locateReturn := exec_busy hbusy
  rw [hrun, State.runLocate, hstep, orFault_ok] at hexec
  cases step with
  | waits u =>
    obtain ⟨k', hwaits, -⟩ := hok
    cases hexec
    rw [hwaits] at hidle
    cases hidle
  | returns r u => exact ⟨r, u, hok, hexec⟩

end Sys2Proof.Machine
end

section
open Sys2Proof Sys2Proof.Machine

/-- Settles O37: the answer is the byte string that the procedure has left in `rxf`, of which it tells the length, the
marker and the size byte. -/
theorem locatedFramesAreDelimited : Obligations.LocatedFramesAreDelimited := by
  unfold Obligations.LocatedFramesAreDelimited
  intro s t c lim k hinv hbusy hexec hidle hstatus
  obtain ⟨r, u, hok, hreturn⟩ := execLocate_ok hinv hbusy hexec hidle
  obtain ⟨f, rfl, hholds, rfl⟩ := locateReturn_ok hreturn hstatus
  obtain ⟨-, -, h2, h257, hmax, hlen, -, hmarker, b, hsize, hb⟩ := hok
  have hn : (lenField f).toNat = f.length := lenField_toNat (by omega)
  have hsizeByte : f.getD 1 0 = b := Memory.getD_of_holds hholds (by omega) hsize
  simp only [State.respond_rsp, State.respond_rxf, State.respond_rxfLen, hsizeByte]
  exact ⟨h2, h257, hmax, hn, Memory.getD_of_holds hholds (by omega) hmarker,
    by omega, hholds, BitVec.eq_of_toNat_eq (hlen.trans hn.symm)⟩

end

section
/-! SUPPORT. The arithmetic of the checksum (spec/40_checksum.md R110 to R112): its value as an exact sum, which bytes
can stand for one another in it, and what it makes of a frame. -/

namespace Sys2Proof.Machine

/-! ## Sums of bytes -/

@[simp] theorem byteSum_nil : byteSum [] = 0 := rfl

@[simp] theorem byteSum_cons (b : Byte) (bs : List Byte) : byteSum (b :: bs) = b.toNat + byteSum bs := rfl

@[simp] theorem byteSum_append (xs ys : List Byte) : byteSum (xs ++ ys) = byteSum xs + byteSum ys := by
  simp [byteSum]

theorem byteSum_perm {p q : List Byte} (h : p.Perm q) : byteSum p = byteSum q := (h.map _).sum_nat

theorem byteSum_le (bytes : List Byte) : byteSum bytes ≤ bytes.length * 255 := by
  have hle : ∀ x ∈ bytes.map BitVec.toNat, x ≤ 255 := by
    simp only [List.mem_map, forall_exists_index, and_imp, forall_apply_eq_imp_iff₂]
    exact fun b _ => Nat.le_of_lt_succ b.isLt
  simpa [byteSum] using List.sum_le_card_nsmul _ 255 hle

/-! ## The checksum as a sum modulo 250 -/

theorem csAdd_toNat (acc b : Byte) : (csAdd acc b).toNat = (acc.toNat + b.toNat) % 250 := by
  simp only [csAdd, csMod, BitVec.toNat_ofNat]
  omega

/-- R110: from a residue, the exact sum modulo 250. -/
theorem csFold_toNat {acc : Byte} (h : acc.toNat < 250) (bytes : List Byte) :
    (csFold acc bytes).toNat = (acc.toNat + byteSum bytes) % 250 := by
  induction bytes generalizing acc with
  | nil => exact (Nat.mod_eq_of_lt h).symm
  | cons b bs ih =>
    calc (csFold (csAdd acc b) bs).toNat
        = ((acc.toNat + b.toNat) % 250 + byteSum bs) % 250 := by rw [ih (csAdd_lt acc b), csAdd_toNat]
      _ = (acc.toNat + byteSum (b :: bs)) % 250 := by rw [Nat.mod_add_mod, byteSum_cons, Nat.add_assoc]

theorem csFold_zero_toNat (bytes : List Byte) : (csFold 0 bytes).toNat = byteSum bytes % 250 := by
  simpa using csFold_toNat (acc := 0) (by decide) bytes

theorem checksumOf_toNat (size seq : Byte) (p : List Byte) :
    (checksumOf size seq p).toNat = (size.toNat + seq.toNat + byteSum p) % 250 := by
  rw [checksumOf, csFold_zero_toNat, byteSum_cons, byteSum_cons, Nat.add_assoc]

theorem csFold_zero_eq_iff (xs ys : List Byte) : csFold 0 xs = csFold 0 ys ↔ byteSum xs ≡ byteSum ys [MOD 250] := by
  rw [← BitVec.toNat_inj, csFold_zero_toNat, csFold_zero_toNat, Nat.ModEq]

/-! ## One byte replaced (R112) -/

/-- A replaced byte goes undetected exactly when the two bytes have the same residue, whatever stands around them. -/
theorem csFold_replace_eq_iff (xs ys : List Byte) (b c : Byte) :
    csFold 0 (xs ++ b :: ys) = csFold 0 (xs ++ c :: ys) ↔ b.toNat ≡ c.toNat [MOD 250] := by
  simp only [csFold_zero_eq_iff, byteSum_append, byteSum_cons]
  exact ⟨fun h => (h.add_left_cancel' _).add_right_cancel' _, fun h => (h.add_right _).add_left _⟩

/-- Two bytes have the same residue when they are equal or differ by 250. -/
theorem byte_modEq_iff (b c : Byte) :
    b.toNat ≡ c.toNat [MOD 250] ↔ b = c ∨ b.toNat + 250 = c.toNat ∨ c.toNat + 250 = b.toNat := by
  rw [← BitVec.toNat_inj, Nat.ModEq]
  omega

/-- R112: the six pairs that differ by 250. -/
theorem mem_undetectedPairs_iff (b c : Byte) :
    (b, c) ∈ [(0x00#8, 0xFA#8), (0x01#8, 0xFB#8), (0x02#8, 0xFC#8), (0x03#8, 0xFD#8), (0x04#8, 0xFE#8),
      (0x05#8, 0xFF#8)] ↔ b.toNat + 250 = c.toNat := by
  simp only [List.mem_cons, Prod.mk.injEq, ← BitVec.toNat_inj, BitVec.toNat_ofNat, List.not_mem_nil, or_false]
  omega

/-! ## One bit flipped (R112) -/

/-- Setting bit `k` of a word in which it is clear adds `2 ^ k`. -/
theorem toNat_xor_twoPow_of_clear {w k : Nat} (hk : k < w) {x : BitVec w} (hx : x.getLsbD k = false) :
    (x ^^^ BitVec.twoPow w k).toNat = x.toNat + 2 ^ k := by
  have hdisjoint : x &&& BitVec.twoPow w k = 0#w := by simp [BitVec.and_twoPow, hx]
  have hxor : x ^^^ BitVec.twoPow w k = x ||| BitVec.twoPow w k := by
    refine BitVec.eq_of_getLsbD_eq fun i _ => ?_
    simp only [BitVec.getLsbD_xor, BitVec.getLsbD_or, BitVec.getLsbD_twoPow]
    by_cases hik : k = i
    · subst hik; simp [hx]
    · simp [hik]
  rw [hxor, ← BitVec.add_eq_or_of_and_eq_zero _ _ hdisjoint, BitVec.toNat_add_of_and_eq_zero hdisjoint,
    BitVec.toNat_twoPow_of_lt hk]

/-- A flip of bit `k` changes a word by `2 ^ k`, up or down. -/
theorem toNat_xor_twoPow {w k : Nat} (hk : k < w) (x : BitVec w) :
    (x ^^^ BitVec.twoPow w k).toNat = x.toNat + 2 ^ k ∨ x.toNat = (x ^^^ BitVec.twoPow w k).toNat + 2 ^ k := by
  cases hx : x.getLsbD k with
  | false => exact .inl (toNat_xor_twoPow_of_clear hk hx)
  | true =>
    have hclear : (x ^^^ BitVec.twoPow w k).getLsbD k = false := by
      simp [hx, hk]
    have hback := toNat_xor_twoPow_of_clear hk hclear
    rw [BitVec.xor_assoc, BitVec.xor_self, BitVec.xor_zero] at hback
    exact .inr hback

/-- A flipped bit changes the residue: a power of two below 250 is no multiple of 250. -/
theorem flipped_not_modEq {k : Nat} (hk : k < 8) (b : Byte) :
    ¬ (b ^^^ BitVec.twoPow 8 k).toNat ≡ b.toNat [MOD 250] := by
  have hpos : 0 < 2 ^ k := Nat.two_pow_pos k
  have hlt : 2 ^ k ≤ 2 ^ 7 := Nat.pow_le_pow_right (by omega) (by omega)
  have hflip := toNat_xor_twoPow hk b
  rw [Nat.ModEq]
  omega

/-! ## The checksum of a frame -/

/-- R111, in terms of the exact sum. -/
theorem goodFrame_eq (f : List Byte) :
    goodFrame f = decide (4 ≤ f.length ∧ byteSum ((f.drop 1).dropLast) % 250 = (f.getLastD 0).toNat) := by
  rw [Bool.eq_iff_iff, decide_eq_true_iff, goodFrame, Bool.and_eq_true, decide_eq_true_iff, beq_iff_eq,
    ← BitVec.toNat_inj, csFold_zero_toNat, coveredBytes]

/-- R80: a frame's last byte is its checksum. -/
theorem frameBytes_eq_append (marker s : Byte) (p : List Byte) :
    frameBytes marker s p = (marker :: sizeByte p :: s :: p) ++ [checksumOf (sizeByte p) s p] := rfl

/-- R80: a frame's checksum covers its size, seqNum and payload. -/
theorem coveredBytes_frameBytes (marker s : Byte) (p : List Byte) :
    coveredBytes (frameBytes marker s p) = sizeByte p :: s :: p :=
  List.dropLast_concat (l₁ := sizeByte p :: s :: p)

/-- R115: the frame of a payload is Good. -/
theorem goodFrame_frameBytes (marker s : Byte) (p : List Byte) : goodFrame (frameBytes marker s p) = true := by
  have hlast : (frameBytes marker s p).getLastD 0 = checksumOf (sizeByte p) s p := by
    rw [frameBytes_eq_append, List.getLastD_concat]
  rw [goodFrame, coveredBytes_frameBytes, hlast, checksumOf, frameBytes_length]
  simp

/-- R111: `Verify` of a frame that stands in `rxf` answers whether it is Good, and writes `cs_acc` only. -/
theorem State.verify_holds {s : State} {f : List Byte} (h : s.rxf.holds 0 f = true) (hl : f.length ≤ 257) :
    ∃ acc, s.verify f.length = .ok (goodFrame f, s.setCsAcc acc) := by
  have hverify := State.verify_ok h hl
  obtain ⟨acc, hacc⟩ := State.verify_frame hverify
  exact ⟨acc, hacc ▸ hverify⟩

end Sys2Proof.Machine
end

section
/-! SUPPORT. What the commands of checksum_unit and ENCODE answer at their acceptance (spec/40_checksum.md R113, R114,
spec/41_frame_codec.md R131). -/

namespace Sys2Proof.Machine

/-- `respond` writes the response registers only, and ends in IDLE. -/
theorem State.respond_eq_answered (s : State) (r : Response) : s.respond r = s.answered r := rfl

variable {s : State} {n : Len} {d : List Byte}

/-- R90: in IDLE a data operand of more than 257 bytes is answered BAD_OPERAND. -/
theorem exec_badOperand {i : Instr} (hi : dataLength i = some n) (hwf : i.wf = true) (hidle : s.ustate = .idle)
    (hn : 257 < n.toNat) : exec i s = .next (s.answered { status := .badOperand }) :=
  (checksAreMadeInOrder i s hwf hidle).1 _ (by simp [firstCause, hi, hn])

/-- R113. -/
theorem exec_csCompute (a b : Byte) (hidle : s.ustate = .idle) (hn : n.toNat ≤ 257) :
    exec (.csCompute a b n d) s =
      .next ((s.setCsAcc (checksumOf b a d)).answered { v := checksumOf b a d }) := by
  rw [exec_idle hidle, startOf, csComputeStart, State.needOperand_ok hn]
  rfl

/-- R114. -/
theorem exec_csVerify (hidle : s.ustate = .idle) (hlen : n.toNat = d.length) (hmax : d.length ≤ 257) :
    ∃ acc, exec (.csVerify n d) s =
      .next ({ s with rxf := s.rxf.putAll 0 d, rxfLen := n, csAcc := acc }.answered
        { v := bitByte (goodFrame d) }) := by
  obtain ⟨acc, hverify⟩ := State.verify_holds
    (s := ((s.setRspPending false).setRxf ((s.setRspPending false).rxf.putAll 0 d)).setRxfLen n)
    (Memory.holds_putAll _ 0 d) hmax
  refine ⟨acc, ?_⟩
  rw [exec_idle hidle, startOf, csVerifyStart, State.needOperand_ok (hlen ▸ hmax), State.loadRxf_ok _ _ hmax,
    orFault_ok, hlen, hverify, orFault_ok]
  simp only [State.respond_eq_answered, State.answered, State.setCsAcc, State.setRxfLen, State.setRxf,
    State.setRspPending]

/-- R131, for a payload that fits. -/
theorem exec_encode (a : Byte) (hidle : s.ustate = .idle) (hlen : n.toNat = d.length) (hmax : d.length ≤ 253) :
    exec (.encode a n d) s =
      .next ((s.encoded d a).answered { n := (s.encoded d a).txfLen, d := frameBytes s.cfg.marker a d }) := by
  rw [exec_idle hidle, startOf, encodeStart, State.needOperand_ok (by omega), State.encode_ok _ _ hmax, orFault_ok]
  dsimp only
  rw [State.encoded_memReadAll _ a hmax]
  rfl

end Sys2Proof.Machine
end

section
open Sys2Proof Sys2Proof.Machine

/-- Settles O25: the value is a sum, and a sum does not see the order. -/
theorem checksumIsTheExactSum : Obligations.ChecksumIsTheExactSum := by
  unfold Obligations.ChecksumIsTheExactSum
  intro s size seq p
  refine ⟨checksumOf_toNat size seq p, rfl, fun q hq => ?_⟩
  exact BitVec.eq_of_toNat_eq <| calc
    (checksumOf size seq q).toNat = (size.toNat + seq.toNat + byteSum q) % 250 := checksumOf_toNat size seq q
    _ = (size.toNat + seq.toNat + byteSum p) % 250 := by rw [byteSum_perm hq]
    _ = (checksumOf size seq p).toNat := (checksumOf_toNat size seq p).symm

/-- Settles O26: the test of the accumulator against the last byte is the test of the exact sum. -/
theorem verifyIsTheChecksumTest : Obligations.VerifyIsTheChecksumTest := by
  unfold Obligations.VerifyIsTheChecksumTest
  intro s f hholds hlen
  obtain ⟨acc, hverify⟩ := State.verify_holds hholds hlen
  exact ⟨acc, goodFrame_eq f ▸ hverify⟩

/-- Settles O27: what one byte does to the checksum is a matter of its residue modulo 250. -/
theorem checksumArithmeticLaws : Obligations.ChecksumArithmeticLaws := by
  unfold Obligations.ChecksumArithmeticLaws
  refine ⟨fun f hf => ?_, fun xs ys b c => ?_, fun xs ys b c => ?_, fun xs ys b k hk heq => ?_⟩
  · have hcovered : ((f.drop 1).dropLast).length = f.length - 2 := coveredBytes_length
    have hsum := byteSum_le ((f.drop 1).dropLast)
    omega
  · simp only [csFold_zero_toNat, byteSum_append, byteSum_cons, Int.ModEq]
    omega
  · rw [csFold_replace_eq_iff, byte_modEq_iff, mem_undetectedPairs_iff, mem_undetectedPairs_iff]
  · exact flipped_not_modEq hk b ((csFold_replace_eq_iff xs ys _ _).1 heq)

/-- Settles O28: the operand is in range and the checksum is the exact sum, or it is refused. -/
theorem csComputeAnswersTheChecksum : Obligations.CsComputeAnswersTheChecksum := by
  unfold Obligations.CsComputeAnswersTheChecksum
  intro a b n d s hwf hidle
  exact ⟨rfl, fun hn => ⟨checksumOf b a d, checksumOf_toNat b a d, exec_csCompute a b hidle hn⟩,
    exec_badOperand rfl hwf hidle⟩

/-- Settles O29: the frame is copied from offset 0 and verified there, or it is refused. -/
theorem csVerifyAnswersGoodOrBad : Obligations.CsVerifyAnswersGoodOrBad := by
  unfold Obligations.CsVerifyAnswersGoodOrBad
  intro n d s hwf hidle
  refine ⟨rfl, fun hn => ?_, exec_badOperand rfl hwf hidle⟩
  have hlen := dataWf_length hwf hn
  obtain ⟨acc, hexec⟩ := exec_csVerify hidle hlen (hlen ▸ hn)
  refine ⟨s.rxf.putAll 0 d, acc, ?_, Memory.holds_putAll _ 0 d,
    fun j hj => Memory.get?_putAll_ge _ d (by omega)⟩
  simpa only [goodFrame_eq, bitByte, decide_eq_true_eq] using hexec

/-- Settles O30: the answer of ENCODE is the frame of its payload, which is Good. -/
theorem encodedFramesVerifyGood : Obligations.EncodedFramesVerifyGood := by
  unfold Obligations.EncodedFramesVerifyGood
  intro s a n d hidle hlen hmax
  have hn : (s.encoded d a).txfLen.toNat = d.length + 4 := lenOf_frame hmax
  have hframe := frameBytes_length s.cfg.marker a d
  obtain ⟨acc, hverify⟩ := exec_csVerify
    (s := (s.encoded d a).answered { n := (s.encoded d a).txfLen, d := frameBytes s.cfg.marker a d })
    (n := (s.encoded d a).txfLen) (d := frameBytes s.cfg.marker a d) rfl (hn.trans hframe.symm) (by omega)
  rw [goodFrame_frameBytes] at hverify
  exact ⟨_, _, exec_encode a hidle hlen hmax, rfl, hn, hverify, rfl, rfl⟩

end

section
/-! SUPPORT. What ENCODE and DECODE answer at their acceptance (spec/41_frame_codec.md R131, R135), and what DECODE
finds in a frame (spec/30_encoding.md R80). -/

namespace Sys2Proof.Machine

/-- R80, R132: the sequence byte of a payload's frame. -/
theorem seqOf_frameBytes (marker q : Byte) (p : List Byte) : seqOf (frameBytes marker q p) = q := rfl

/-- R80, R132: the payload of a payload's frame. -/
theorem payloadOf_frameBytes (marker q : Byte) (p : List Byte) : payloadOf (frameBytes marker q p) = p :=
  List.dropLast_concat

variable {s : State} {n : Len} {d : List Byte}

/-- R131: a data operand of 254 to 257 bytes makes no frame. -/
theorem exec_encode_tooLarge (a : Byte) (hwf : dataWf n d = true) (hidle : s.ustate = .idle) (hbig : 253 < n.toNat)
    (hn : n.toNat ≤ 257) : exec (.encode a n d) s = .next (s.answered { status := .payloadTooLarge }) :=
  (checksAreMadeInOrder (.encode a n d) s hwf hidle).1 _
    (by simp [firstCause, dataLength, needsConnection, hbig, Nat.not_lt.2 hn])

/-- R135: a data operand of fewer than 4 bytes is no frame. -/
theorem exec_decode_short (c : Len) (hwf : dataWf n d = true) (hidle : s.ustate = .idle) (hn : n.toNat < 4) :
    exec (.decode n d c) s = .next (s.answered { status := .frameLength }) :=
  (checksAreMadeInOrder (.decode n d c) s hwf hidle).1 _
    (by simp [firstCause, dataLength, needsConnection, hn, show ¬ 257 < n.toNat by omega])

/-- R135, for a data operand that can be a frame. -/
theorem exec_decode (c : Len) (hidle : s.ustate = .idle) (hlen : n.toNat = d.length) (hmin : 4 ≤ d.length)
    (hmax : d.length ≤ 257) :
    exec (.decode n d c) s = .next ({ s with rxf := s.rxf.putAll 0 d, rxfLen := n }.answered
      { v := seqOf d, n := lenField (truncated (payloadOf d) c), d := truncated (payloadOf d) c }) := by
  rw [exec_idle hidle, startOf, decodeStart, State.needOperand_ok (by omega), if_neg (by omega),
    State.loadRxf_ok _ _ hmax, orFault_ok, hlen, State.decode_ok (Memory.holds_putAll _ 0 d) hmin hmax]
  rfl

theorem truncated_length (p : List Byte) (c : Len) : (truncated p c).length = min c.toNat p.length :=
  List.length_take

end Sys2Proof.Machine
end

section
open Sys2Proof Sys2Proof.Machine

/-- Settles O31: the frame is the model's own, whose checksum is the exact sum, and it stands in `txf`; longer operands
are refused by the checks. -/
theorem encodeAnswersTheFrame : Obligations.EncodeAnswersTheFrame := by
  unfold Obligations.EncodeAnswersTheFrame
  intro a n d s hwf hidle
  refine ⟨rfl, fun hn => ?_, exec_encode_tooLarge a hwf hidle, exec_badOperand rfl hwf hidle⟩
  have hlen : n.toNat = d.length := dataWf_length hwf (by omega)
  have hmax : d.length ≤ 253 := hlen ▸ hn
  have hsize : (sizeByte d).toNat = d.length + 2 := by
    simp only [sizeByte, sizeOverhead, BitVec.toNat_ofNat]
    omega
  refine ⟨sizeByte d, checksumOf (sizeByte d) a d, (s.encoded d a).txfLen, (s.encoded d a).txf, hsize,
    checksumOf_toNat _ _ _, lenOf_frame hmax, exec_encode a hidle hlen hmax, s.encoded_holds d a,
    fun j hj => Memory.get?_putAll_ge _ _ ?_⟩
  rw [frameBytes_length]
  omega

/-- Settles O32: the operand stands in `rxf` from offset 0, and `Decode` reads it there; operands of other lengths are
refused by the checks. -/
theorem decodeAnswersSeqAndPayload : Obligations.DecodeAnswersSeqAndPayload := by
  unfold Obligations.DecodeAnswersSeqAndPayload
  intro n d c s hwf hidle
  refine ⟨rfl, fun hmin hmax => ?_, exec_decode_short c hwf hidle, exec_badOperand rfl hwf hidle⟩
  have hlen : n.toNat = d.length := dataWf_length hwf hmax
  have hcut : (truncated (payloadOf d) c).length = min c.toNat (n.toNat - 4) := by
    rw [truncated_length, payloadOf_length, hlen]
  refine ⟨s.rxf.putAll 0 d, lenField (truncated (payloadOf d) c), ?_,
    exec_decode c hidle hlen (hlen ▸ hmin) (hlen ▸ hmax), Memory.holds_putAll _ 0 d,
    fun j hj => Memory.get?_putAll_ge _ d (by omega)⟩
  rw [lenField_toNat (by omega), hcut]

/-- Settles O33: the answer of ENCODE is a frame, in which DECODE finds what ENCODE was given. -/
theorem decodeOfEncodeGivesThePayload : Obligations.DecodeOfEncodeGivesThePayload := by
  unfold Obligations.DecodeOfEncodeGivesThePayload
  intro s a n d c hidle hlen hmax
  have hframe := frameBytes_length s.cfg.marker a d
  have hdecode := exec_decode
    (s := (s.encoded d a).answered { n := (s.encoded d a).txfLen, d := frameBytes s.cfg.marker a d })
    (n := (s.encoded d a).txfLen) (d := frameBytes s.cfg.marker a d) c rfl
    ((lenOf_frame hmax).trans hframe.symm) (by omega) (by omega)
  rw [seqOf_frameBytes, payloadOf_frameBytes] at hdecode
  have hcut := truncated_length d c
  exact ⟨_, _, exec_encode a hidle hlen hmax, hdecode, rfl, rfl, rfl, (lenField_toNat (by omega)).trans hcut⟩

end

section
/-! SUPPORT. The locate procedure forward (spec/41_frame_codec.md R133, R134): what each of its steps equals, one
equation for each case, whichever command runs it. -/

namespace Sys2Proof.Machine

theorem State.rxRead_of {s : State} {a : RxAnswer} {e : Env} (h : s.env.rxRead = (a, e)) :
    s.rxRead = (a, s.setEnv e) := by
  rw [State.rxRead_eq, h]

/-- The deadline test that follows a read at `k` that made no progress. -/
def testAfter : Point → Point
  | .huntRead => .huntNow
  | .sizeRead => .sizeNow
  | _ => .bodyNow

section
variable {s t : State} {i : Instr} {k : Point} {max : Len} {limit : Time} {b : Byte} {e : Env} {x : Int} {f : List Byte}

/-! ## After a read -/

theorem locateStep_empty (hk : readsStream k = true) (h : s.env.rxRead = (.empty, e)) :
    locateStep i max limit k s = .ok (.waits ({ s with env := e }.issue i (testAfter k) .now)) := by
  cases k <;> cases hk
  case huntRead => simp [locateStep, locateHunt, State.rxRead_of h, testAfter, State.setEnv]
  case sizeRead => simp [locateStep, locateSize, State.rxRead_of h, testAfter, State.setEnv]
  case bodyRead => simp [locateStep, locateByte, State.rxRead_of h, testAfter, State.setEnv]

theorem locateStep_err (hk : readsStream k = true) (h : s.env.rxRead = (.err x, e)) :
    locateStep i max limit k s = .ok (.returns (.transportErr x) { s with env := e }) := by
  cases k <;> cases hk
  case huntRead => simp [locateStep, locateHunt, State.rxRead_of h, State.setEnv]
  case sizeRead => simp [locateStep, locateSize, State.rxRead_of h, State.setEnv]
  case bodyRead => simp [locateStep, locateByte, State.rxRead_of h, State.setEnv]

/-- HUNT drops a byte that is not the marker. -/
theorem locateStep_junk (h : s.env.rxRead = (.byte b, e)) (hb : b ≠ s.cfg.marker) :
    locateStep i max limit .huntRead s = .ok (.waits ({ s with env := e }.issue i .huntNow .now)) := by
  simp [locateStep, locateHunt, State.rxRead_of h, hb, State.setEnv]

/-- HUNT ends at the marker, which it stores at offset 0. -/
theorem locateStep_marker (h : s.env.rxRead = (.byte b, e)) (hb : b = s.cfg.marker) :
    locateStep i max limit .huntRead s =
      .ok (.waits ({ s with env := e, rxf := s.rxf.put 0 b }.issue i .sizeRead .rxRead)) := by
  have hwrite := (s.setEnv e).memWrite_ok (b := .rxf) (i := 0) b (by decide)
  simp only [locateStep, locateHunt, State.rxRead_of h, State.setEnv_cfg, hb, if_pos, locateOffset]
  rw [← hb, hwrite]
  rfl

/-- SIZE takes any byte that fits maxSize as the size, and goes on to the body. -/
theorem locateStep_size (h : s.env.rxRead = (.byte b, e)) (hfit : 2 + b.toNat ≤ s.locMax.toNat) :
    locateStep i max limit .sizeRead s =
      .ok (locateBody i { s with env := e, rxf := s.rxf.put 1 b, locNeed := b, locCnt := 0 }) := by
  have hwrite := ((s.setEnv e).setLocNeed b).memWrite_ok (b := .rxf) (i := 1) b (by decide)
  simp only [locateStep, locateSize, State.rxRead_of h, locateOffset]
  rw [hwrite]
  exact congrArg Except.ok (if_neg (Nat.not_lt.2 hfit))

/-- A size byte that does not fit maxSize ends the procedure, stored as it is. -/
theorem locateStep_oversize (h : s.env.rxRead = (.byte b, e)) (hbig : s.locMax.toNat < 2 + b.toNat) :
    locateStep i max limit .sizeRead s =
      .ok (.returns .noFrame { s with env := e, locNeed := b, rxf := s.rxf.put 1 b }) := by
  have hwrite := ((s.setEnv e).setLocNeed b).memWrite_ok (b := .rxf) (i := 1) b (by decide)
  simp only [locateStep, locateSize, State.rxRead_of h, locateOffset]
  rw [hwrite]
  exact congrArg Except.ok (if_pos hbig)

/-- BODY stores every byte at its offset, the marker like any other. -/
theorem locateStep_body (h : s.env.rxRead = (.byte b, e)) (hcnt : s.locCnt.toNat < s.locNeed.toNat) :
    locateStep i max limit .bodyRead s =
      .ok (locateBody i { s with
        env := e
        rxf := s.rxf.put (2 + s.locCnt.toNat) b
        locCnt := s.locCnt + 1 }) := by
  have hneed := s.locNeed.isLt
  have hwrite := (s.setEnv e).memWrite_ok (b := .rxf) (i := 2 + s.locCnt.toNat) b
    (by simp only [BufName.size]; omega)
  simp only [locateStep, locateByte, State.rxRead_of h, locateOffset, State.setEnv_locCnt]
  rw [hwrite]
  rfl

/-! ## The body, while bytes are missing and when none is -/

theorem locateBody_missing (h : s.locCnt.toNat < s.locNeed.toNat) :
    locateBody i s = .waits (s.issue i .bodyRead .rxRead) :=
  if_pos h

theorem locateBody_complete (h : s.locCnt.toNat = s.locNeed.toNat) :
    locateBody i s = .returns (.frame (2 + s.locNeed.toNat))
      { s with rxfLen := BitVec.ofNat 9 (2 + s.locNeed.toNat) } :=
  if_neg (by omega)

/-- One more body byte is counted. -/
theorem locCnt_succ (h : s.locCnt.toNat < s.locNeed.toNat) : (s.locCnt + 1).toNat = s.locCnt.toNat + 1 := by
  have hneed := s.locNeed.isLt
  have hone : (1 : Len).toNat = 1 := rfl
  rw [BitVec.toNat_add, hone]
  omega

/-! ## After a deadline test -/

theorem locateTest_before {go : State → LocateStep} (h : s.env.readNow.1 < s.dl) :
    locateTest s go = go { s with env := s.env.readNow.2 } :=
  if_neg fun hel => Nat.not_le.2 h ((elapsed_eq_true _ _).1 hel)

theorem locateTest_reached {go : State → LocateStep} (h : s.dl ≤ s.env.readNow.1) :
    locateTest s go = .returns .noFrame { s with env := s.env.readNow.2 } :=
  if_pos ((elapsed_eq_true _ _).2 h)

/-! ## How the procedure returns -/

/-- A located frame fits the buffer. -/
theorem State.completes.length_le (h : s.completes k f e) : 2 ≤ f.length ∧ f.length ≤ 257 := by
  obtain ⟨-, -, -, -, -, ⟨-, hlen, -⟩ | ⟨-, -, hlen, -⟩⟩ := h
  · have hneed := s.locNeed.isLt
    omega
  · omega

/-- A frame that the byte at hand completes stands in `rxf` then. -/
theorem State.completes.holds (h : s.completes k f e) : (s.located f e).rxf.holds 0 f = true := by
  obtain ⟨g, b, rfl, -, hg, -⟩ := h
  rw [Memory.holds_iff] at hg ⊢
  intro j hj
  simp only [State.located, Memory.get?_put, List.length_append, List.length_singleton, Nat.add_sub_cancel,
    Nat.zero_add, List.getLastD_concat] at hj ⊢
  rcases Nat.lt_or_ge j g.length with hlt | hge
  · rw [if_neg (by omega), List.getElem_append_left hlt, ← hg j hlt, Nat.zero_add]
  · rw [if_pos (by omega), List.getElem_append_right hge]
    simp

/-- A frame that the byte at hand completes is returned. -/
theorem locateStep_completes (h : s.completes k f e) :
    locateStep i max limit k s = .ok (.returns (.frame f.length) (s.located f e)) := by
  obtain ⟨g, b, rfl, hread, -, ⟨rfl, hlen, hcnt⟩ | ⟨rfl, rfl, hlen, hfit⟩⟩ := h
  · have hlt : s.locCnt.toNat < s.locNeed.toNat := by omega
    rw [locateStep_body hread hlt, locateBody_complete (by rw [← hcnt]; exact locCnt_succ hlt)]
    have hoff : 2 + s.locCnt.toNat = (g ++ [b]).length - 1 := by omega
    have hneed : s.locNeed = BitVec.ofNat 8 ((g ++ [b]).length - 2) := by
      rw [hlen, Nat.add_sub_cancel_left, BitVec.ofNat_toNat, BitVec.setWidth_eq]
    have hcnt' : s.locCnt + 1 = BitVec.ofNat 9 ((g ++ [b]).length - 2) :=
      BitVec.eq_of_toNat_eq (by rw [locCnt_succ hlt, BitVec.toNat_ofNat]; have := s.locNeed.isLt; omega)
    simp only [State.located, ← hlen, ← hneed, ← hcnt', ← hoff, List.getLastD_concat]
  · rw [locateStep_size hread (by simpa using hfit), locateBody_complete rfl]
    simp only [State.located, hlen, List.getLastD_concat]
    rfl

/-- The procedure returns `NoFrame` where it finds none. -/
theorem locateStep_findsNone (h : s.findsNone k t) :
    locateStep i max limit k s = .ok (.returns .noFrame t) := by
  obtain ⟨hk, hdl, rfl⟩ | ⟨rfl, b, e, hread, hbig, rfl⟩ := h
  · obtain rfl | rfl | rfl := hk <;> exact congrArg Except.ok (locateTest_reached hdl)
  · exact locateStep_oversize hread hbig

/-! ## The commands that run it -/

theorem sendReliableResume_inLocate (hk : inLocate k = true) :
    sendReliableResume i k s = s.runLocate i rxFrameMax (2 * s.cfg.txWait) k (sendReturn i) := by
  cases k <;> cases hk <;> rfl

theorem recvReliableResume_inLocate {c : Len} (hk : inLocate k = true) :
    recvReliableResume c k s = s.runLocate (.recvReliable c) rxFrameMax s.cfg.rxWait k (recvReliableReturn c) := by
  cases k <;> cases hk <;> rfl

/-- Inside the procedure a command runs it on, and answers a transport failure with its code (R221). -/
theorem exec_inLocate (hi : usesLocate i = true) (hbusy : s.ustate = .busy i k) (hk : inLocate k = true) :
    ∃ max limit go, exec i s = s.runLocate i max limit k go ∧
      ∀ x u, go (.transportErr x) u = .next (u.raiseTransport x) := by
  rw [exec_busy hbusy]
  cases i <;> cases hi
  case locate c lim => exact ⟨_, _, _, rfl, fun _ _ => rfl⟩
  case sendReliable n d => exact ⟨_, _, _, sendReliableResume_inLocate hk, fun _ _ => rfl⟩
  case recvBasic c => exact ⟨_, _, _, rfl, fun _ _ => rfl⟩
  case recvReliable c => exact ⟨_, _, _, recvReliableResume_inLocate hk, fun _ _ => rfl⟩

/-- The procedure answers only at its own points. -/
theorem locateStep_inLocate {r : LocateStep} (h : locateStep i max limit k s = .ok r) : inLocate k = true := by
  obtain ⟨_, _, _, _, _, _, heffect, -⟩ := locateStep_form h
  exact heffect.point

/-- Where the procedure waits, so does the command. -/
theorem exec_of_waits (hi : usesLocate i = true) (hbusy : s.ustate = .busy i k)
    (h : ∀ max limit, locateStep i max limit k s = .ok (.waits t)) : exec i s = .next t := by
  obtain ⟨max, limit, go, hrun, -⟩ := exec_inLocate hi hbusy (locateStep_inLocate (h 0 0))
  rw [hrun, State.runLocate, h, orFault_ok]

/-- Where the transport fails, so does the command. -/
theorem exec_of_transportErr (hi : usesLocate i = true) (hbusy : s.ustate = .busy i k)
    (h : ∀ max limit, locateStep i max limit k s = .ok (.returns (.transportErr x) t)) :
    exec i s = .next (t.answered { status := .transportError, x := x }) := by
  obtain ⟨max, limit, go, hrun, hgo⟩ := exec_inLocate hi hbusy (locateStep_inLocate (h 0 0))
  rw [hrun, State.runLocate, h, orFault_ok]
  exact hgo x t

/-- What LOCATE does with what the procedure returns. -/
theorem exec_locate_of_returns {c : Len} {lim : Time} {r : LocateResult} (hbusy : s.ustate = .busy (.locate c lim) k)
    (h : locateStep (.locate c lim) c lim k s = .ok (.returns r t)) : exec (.locate c lim) s = locateReturn r t := by
  have hrun : exec (.locate c lim) s = s.runLocate (.locate c lim) c lim k locateReturn := exec_busy hbusy
  rw [hrun, State.runLocate, h, orFault_ok]

/-- R136: LOCATE answers a frame that stands in `rxf`. -/
theorem locateReturn_frame (hholds : s.rxf.holds 0 f = true) (hlen : f.length ≤ 257) :
    locateReturn (.frame f.length) s = .next (s.answered { n := lenField f, d := f }) := by
  rw [locateReturn, State.memReadAll_ok (b := .rxf) (by simpa [BufName.size] using hlen) hholds, orFault_ok]
  rfl

/-- R136: LOCATE ends with the frame that the byte at hand completes. -/
theorem exec_locate_completes {c : Len} {lim : Time} (hbusy : s.ustate = .busy (.locate c lim) k)
    (h : s.completes k f e) :
    exec (.locate c lim) s = .next ((s.located f e).answered { n := BitVec.ofNat 9 f.length, d := f }) := by
  rw [exec_locate_of_returns hbusy (locateStep_completes h), locateReturn_frame h.holds h.length_le.2]
  rfl

end

end Sys2Proof.Machine
end

section
open Sys2Proof Sys2Proof.Machine

/-- Settles O34: the check of the Connection State, then the procedure's own first two requests. -/
theorem locateSetsItsDeadline : Obligations.LocateSetsItsDeadline := by
  unfold Obligations.LocateSetsItsDeadline
  intro c lim s
  refine ⟨fun hidle hphase => ?_, fun hidle hphase => ?_, fun hbusy => ?_⟩
  · rw [exec_idle hidle, startOf, locateStart, State.needConnected_bad (s := s.setRspPending false) hphase]
    rfl
  · rw [exec_idle hidle, startOf, locateStart, State.needConnected_ok (s := s.setRspPending false) hphase]
    rfl
  · rw [exec_busy hbusy]
    rfl

/-- Settles O35: at each point the equation of the procedure's step, taken over by the command that runs it. -/
theorem locateTakesBytesInOrder : Obligations.LocateTakesBytesInOrder := by
  unfold Obligations.LocateTakesBytesInOrder
  intro s i k hi hbusy
  refine ⟨fun e hread => ?_, fun b e hread => ⟨?_, ?_, ?_, ?_⟩, fun htime => ⟨?_, ?_, ?_⟩⟩
  · refine ⟨?_, ?_, ?_⟩ <;>
      (rintro rfl; exact exec_of_waits hi hbusy fun _ _ => locateStep_empty rfl hread)
  · rintro rfl hb
    exact exec_of_waits hi hbusy fun _ _ => locateStep_junk hread hb
  · rintro rfl hb
    exact exec_of_waits hi hbusy fun _ _ => locateStep_marker hread hb
  · rintro rfl hpos hfit
    exact exec_of_waits hi hbusy fun _ _ =>
      (locateStep_size hread hfit).trans (congrArg Except.ok (locateBody_missing hpos))
  · rintro rfl hcnt
    have hlt : s.locCnt.toNat < s.locNeed.toNat := by omega
    exact exec_of_waits hi hbusy fun _ _ => by
      rw [locateStep_body hread hlt, locateBody_missing (by rw [locCnt_succ hlt]; exact hcnt)]
  · rintro rfl
    exact exec_of_waits hi hbusy fun _ _ => congrArg Except.ok (locateTest_before htime)
  · rintro rfl
    exact exec_of_waits hi hbusy fun _ _ => congrArg Except.ok (locateTest_before htime)
  · rintro rfl hcnt
    exact exec_of_waits hi hbusy fun _ _ =>
      congrArg Except.ok ((locateTest_before htime).trans (locateBody_missing hcnt))

/-- Settles O36: the three results of the procedure, each with LOCATE's answer to it. -/
theorem locateAnswers : Obligations.LocateAnswers := by
  unfold Obligations.LocateAnswers
  intro s c lim k hbusy
  refine ⟨fun f e hcomplete => exec_locate_completes hbusy hcomplete, fun t hnone => ?_, fun x e hk hread => ?_⟩
  · exact exec_locate_of_returns hbusy (locateStep_findsNone hnone)
  · exact exec_locate_of_returns hbusy (locateStep_err hk hread)

/-- Settles O38: TIMEOUT is the answer to `NoFrame` only, and the form of the procedure's step says where that comes
from. -/
theorem timeoutsComeOnlyFromTheDeadline : Obligations.TimeoutsComeOnlyFromTheDeadline := by
  unfold Obligations.TimeoutsComeOnlyFromTheDeadline
  intro s t c lim k hbusy hexec hidle hstatus
  rw [exec_busy hbusy] at hexec
  obtain ⟨step, hstep, hgo⟩ := orFault_eq_next hexec
  obtain ⟨e, dl, max, need, cnt, m, -, -, hform⟩ := locateStep_form hstep
  cases step with
  | waits u =>
    obtain ⟨k', q, -, -, rfl⟩ := hform
    cases hgo
    cases hidle
  | returns r u =>
    obtain ⟨len, rfl, hnone⟩ := hform
    cases r with
    | noFrame => cases hgo; exact hnone rfl
    | transportErr x => cases hgo; cases hstatus
    | frame n =>
      obtain ⟨f, -, hnext⟩ := orFault_eq_next hgo
      cases hnext
      cases hstatus

/-- Settles O51: the procedure returns the transport's error, and every command that runs it answers with that. -/
theorem transportErrorsAbortTheLoops : Obligations.TransportErrorsAbortTheLoops := by
  unfold Obligations.TransportErrorsAbortTheLoops
  intro s i k x e hi hbusy hk hread
  exact exec_of_transportErr hi hbusy fun _ _ => locateStep_err hk hread

end

section
/-! SUPPORT. A command over a whole stream (spec/41_frame_codec.md R133, R134): its steps up to the one that ends it,
and how the locate procedure takes the first frame of a stream of bytes, whichever command runs it. -/

namespace Sys2Proof.Machine

/-! ## The steps of a command -/

/-- One step of command `i` that does not end it. -/
def Continues (i : Instr) (s t : State) : Prop := exec i s = .next t ∧ t.ustate ≠ .idle

/-- A command that goes on to `t` and there sends its response has finished. -/
theorem finishes_of_continues {i : Instr} {s t u : State} (h : Relation.ReflTransGen (Continues i) s t)
    (hexec : exec i t = .next u) (hidle : u.ustate = .idle) : ∃ fuel, finishes i fuel s = some u := by
  induction h using Relation.ReflTransGen.head_induction_on with
  | refl => exact ⟨1, by simp [finishes, hexec, hidle]⟩
  | head hstep _ ih =>
    obtain ⟨hnext, hbusy⟩ := hstep
    obtain ⟨fuel, hfuel⟩ := ih
    exact ⟨fuel + 1, by simp [finishes, hnext, hbusy, hfuel]⟩

/-! ## What the procedure has taken -/

/-- The environment after some of the stream and of the ticks have been taken, and requests `qs` issued. -/
def Env.heard (e : Env) (rx : List RxAnswer) (ticks : List Time) (now : Time) (qs : List Request) : Env :=
  { e with rx := rx, ticks := ticks, now := now, log := e.log ++ qs }

section
variable (e : Env) (rx rx' : List RxAnswer) (ticks ticks' : List Time) (now now' : Time) (qs qs' : List Request)

@[simp] theorem Env.heard_rx : (e.heard rx ticks now qs).rx = rx := rfl
@[simp] theorem Env.heard_ticks : (e.heard rx ticks now qs).ticks = ticks := rfl
@[simp] theorem Env.heard_now : (e.heard rx ticks now qs).now = now := rfl

@[simp] theorem Env.heard_nothing : e.heard e.rx e.ticks e.now [] = e := by
  simp [Env.heard]

@[simp] theorem Env.heard_heard :
    (e.heard rx ticks now qs).heard rx' ticks' now' qs' = e.heard rx' ticks' now' (qs ++ qs') := by
  simp [Env.heard]

end

/-- `s` with command `i` waiting at `k` in the procedure, which has this environment and these working registers. -/
def State.hearing (s : State) (i : Instr) (k : Point) (e : Env) (m : Memory) (need : Byte) (cnt : Len) : State :=
  { s with ustate := .busy i k, env := e, rxf := m, locNeed := need, locCnt := cnt }

theorem writesOf_append (qs qs' : List Request) : writesOf (qs ++ qs') = writesOf qs ++ writesOf qs' :=
  List.filterMap_append

section
variable {s : State} {i : Instr} {e : Env} {m : Memory} {need b : Byte} {cnt : Len} {d : Time} {rx : List RxAnswer}
  {ticks : List Time}

/-! ## One answer taken, by the command that runs the procedure -/

/-- The procedure has waited at another of its points, and so has the command. -/
theorem continues_of_waits {t : State} {k k' : Point} (hi : usesLocate i = true)
    (h : ∀ max limit, locateStep i max limit k (s.hearing i k e m need cnt) = .ok (.waits t))
    (ht : t.ustate = .busy i k') : Continues i (s.hearing i k e m need cnt) t :=
  ⟨exec_of_waits hi rfl h, by rw [ht]; nofun⟩

theorem continues_junk (hi : usesLocate i = true) (hrx : e.rx = .byte b :: rx) (hb : b ≠ s.cfg.marker) :
    Continues i (s.hearing i .huntRead e m need cnt)
      (s.hearing i .huntNow (e.heard rx e.ticks e.now [.now]) m need cnt) :=
  continues_of_waits hi
    (fun _ _ => locateStep_junk (s := s.hearing i .huntRead e m need cnt) (Env.rxRead_cons hrx) hb) rfl

theorem continues_huntNow (hi : usesLocate i = true) (hticks : e.ticks = d :: ticks) (htime : e.now + d < s.dl) :
    Continues i (s.hearing i .huntNow e m need cnt)
      (s.hearing i .huntRead (e.heard e.rx ticks (e.now + d) [.rxRead]) m need cnt) := by
  have hnow := Env.readNow_cons hticks
  refine continues_of_waits hi (fun _ _ => congrArg Except.ok ?_) rfl
  rw [locateTest_before (show e.readNow.1 < s.dl by rw [hnow]; exact htime), State.hearing, hnow]
  rfl

theorem continues_marker (hi : usesLocate i = true) (hrx : e.rx = .byte s.cfg.marker :: rx) :
    Continues i (s.hearing i .huntRead e m need cnt)
      (s.hearing i .sizeRead (e.heard rx e.ticks e.now [.rxRead]) (m.put 0 s.cfg.marker) need cnt) :=
  continues_of_waits hi
    (fun _ _ => locateStep_marker (s := s.hearing i .huntRead e m need cnt) (Env.rxRead_cons hrx) rfl) rfl

theorem continues_size (hi : usesLocate i = true) (hrx : e.rx = .byte b :: rx) (hpos : 0 < b.toNat)
    (hfit : 2 + b.toNat ≤ s.locMax.toNat) :
    Continues i (s.hearing i .sizeRead e m need cnt)
      (s.hearing i .bodyRead (e.heard rx e.ticks e.now [.rxRead]) (m.put 1 b) b 0) :=
  continues_of_waits hi
    (fun _ _ => (locateStep_size (s := s.hearing i .sizeRead e m need cnt) (Env.rxRead_cons hrx) hfit).trans
      (congrArg Except.ok (locateBody_missing hpos))) rfl

theorem continues_body (hi : usesLocate i = true) (hrx : e.rx = .byte b :: rx) (hcnt : cnt.toNat + 1 < need.toNat) :
    ∃ cnt', cnt'.toNat = cnt.toNat + 1 ∧ Continues i (s.hearing i .bodyRead e m need cnt)
      (s.hearing i .bodyRead (e.heard rx e.ticks e.now [.rxRead]) (m.put (2 + cnt.toNat) b) need cnt') := by
  have hlt : cnt.toNat < need.toNat := by omega
  have hsucc := locCnt_succ (s := s.hearing i .bodyRead e m need cnt) hlt
  refine ⟨cnt + 1, hsucc, continues_of_waits hi (fun _ _ => ?_) rfl⟩
  rw [locateStep_body (Env.rxRead_cons hrx) hlt, locateBody_missing (hsucc.trans_lt hcnt)]
  rfl

/-! ## A whole stream -/

/-- HUNT drops the bytes before the marker, with a deadline test after each. -/
theorem hunt_drops_junk {junk : List Byte} {ds : List Time} (hi : usesLocate i = true)
    (hjunk : s.cfg.marker ∉ junk) (hrx : e.rx = junk.map RxAnswer.byte ++ rx) (hticks : e.ticks = ds ++ ticks)
    (hlen : ds.length = junk.length) (htime : ds = [] ∨ e.now + ds.sum < s.dl) :
    ∃ qs, writesOf qs = [] ∧ Relation.ReflTransGen (Continues i) (s.hearing i .huntRead e m need cnt)
      (s.hearing i .huntRead (e.heard rx ticks (e.now + ds.sum) qs) m need cnt) := by
  induction junk generalizing e ds with
  | nil =>
    obtain rfl := List.eq_nil_of_length_eq_zero hlen
    obtain rfl : e.rx = rx := hrx
    obtain rfl : e.ticks = ticks := hticks
    exact ⟨[], rfl, by simpa using .refl⟩
  | cons b junk ih =>
    obtain ⟨d, ds, rfl⟩ := List.exists_cons_of_length_pos (show 0 < ds.length by simp [hlen])
    obtain ⟨hb, hjunk⟩ := List.ne_and_not_mem_of_not_mem_cons hjunk
    have htime : e.now + d + ds.sum < s.dl := by simpa [Nat.add_assoc] using htime
    obtain ⟨qs, hqs, hrest⟩ := ih
      (e := (e.heard (junk.map .byte ++ rx) e.ticks e.now [.now]).heard _ (ds ++ ticks) (e.now + d) [.rxRead])
      hjunk rfl rfl (Nat.succ.inj hlen) (.inr htime)
    have hnow : e.now + d < s.dl := Nat.lt_of_le_of_lt (Nat.le_add_right _ _) htime
    have hrun := Relation.ReflTransGen.head (continues_junk hi hrx hb.symm)
      (.head (continues_huntNow hi hticks hnow) hrest)
    exact ⟨.now :: .rxRead :: qs, hqs, by simpa [Nat.add_assoc] using hrun⟩

/-- BODY takes the bytes before the last of the frame. -/
theorem body_takes_bytes {bs : List Byte} (hi : usesLocate i = true) (hrx : e.rx = bs.map RxAnswer.byte ++ rx)
    (hcnt : cnt.toNat + bs.length < need.toNat) :
    ∃ qs cnt', writesOf qs = [] ∧ cnt'.toNat = cnt.toNat + bs.length ∧
      Relation.ReflTransGen (Continues i) (s.hearing i .bodyRead e m need cnt)
        (s.hearing i .bodyRead (e.heard rx e.ticks e.now qs) (m.putAll (2 + cnt.toNat) bs) need cnt') := by
  induction bs generalizing e m cnt with
  | nil =>
    obtain rfl : e.rx = rx := hrx
    exact ⟨[], cnt, rfl, rfl, by simpa using .refl⟩
  | cons b bs ih =>
    rw [List.length_cons] at hcnt ⊢
    obtain ⟨cnt1, hcnt1, htake⟩ := continues_body (s := s) (m := m) (need := need) (cnt := cnt) hi hrx (by omega)
    obtain ⟨qs, cnt', hqs, hcnt', hrest⟩ := ih (e := e.heard (bs.map .byte ++ rx) e.ticks e.now [.rxRead])
      (m := m.put (2 + cnt.toNat) b) (cnt := cnt1) rfl (by omega)
    rw [hcnt1] at hrest
    exact ⟨.rxRead :: qs, cnt', hqs, by omega,
      by simpa [Memory.putAll, Nat.add_assoc] using Relation.ReflTransGen.head htake hrest⟩

/-- R133, R134: over a stream of junk without the marker and then a frame, the procedure comes to the answer that
completes the frame, whichever command runs it; it has offered nothing to the transport. -/
theorem stream_completes {junk body : List Byte} {size : Byte} {ds : List Time} (hi : usesLocate i = true)
    (hjunk : s.cfg.marker ∉ junk) (hbody : body.length = size.toNat) (hfit : 2 + size.toNat ≤ s.locMax.toNat)
    (hrx : e.rx = (junk ++ s.cfg.marker :: size :: body).map RxAnswer.byte ++ rx) (hticks : e.ticks = ds ++ ticks)
    (hlen : ds.length = junk.length) (htime : ds = [] ∨ e.now + ds.sum < s.dl) :
    ∃ k e' m' need' cnt' qs, writesOf qs = [] ∧
      Relation.ReflTransGen (Continues i) (s.hearing i .huntRead e m need cnt) (s.hearing i k e' m' need' cnt') ∧
      (s.hearing i k e' m' need' cnt').completes k (s.cfg.marker :: size :: body)
        (e.heard rx ticks (e.now + ds.sum) qs) := by
  rw [List.map_append, List.append_assoc] at hrx
  obtain ⟨qs, hqs, hhunt⟩ := hunt_drops_junk (m := m) (need := need) (cnt := cnt) hi hjunk hrx hticks hlen htime
  have hmarker := hhunt.tail (continues_marker hi rfl)
  simp only [Env.heard_heard, Env.heard_ticks, Env.heard_now] at hmarker
  rcases List.eq_nil_or_concat' body with rfl | ⟨bs, b, rfl⟩
  · obtain rfl : size = 0 := BitVec.eq_of_toNat_eq hbody.symm
    refine ⟨_, _, _, _, _, qs ++ [.rxRead], by rw [writesOf_append, hqs]; rfl, hmarker, [s.cfg.marker], 0, rfl,
      Env.rxRead_cons rfl, Memory.holds_putAll m 0 [s.cfg.marker], .inr ⟨rfl, rfl, rfl, hfit⟩⟩
  · have hneed : bs.length + 1 = size.toNat := by simpa using hbody
    have hsize := hmarker.tail (continues_size hi rfl (by omega) hfit)
    simp only [Env.heard_heard, Env.heard_ticks, Env.heard_now, List.append_assoc] at hsize
    obtain ⟨qs', cnt', hqs', hcnt', hrest⟩ := body_takes_bytes (s := s) (bs := bs) (rx := .byte b :: rx)
      (e := e.heard ((bs ++ [b]).map .byte ++ rx) ticks (e.now + ds.sum) (qs ++ [.rxRead, .rxRead]))
      (m := (m.put 0 s.cfg.marker).put 1 size) (need := size) (cnt := 0) hi (by simp) (hneed ▸ by simp)
    have hrun := hsize.trans hrest
    simp only [Env.heard_heard, Env.heard_ticks, Env.heard_now] at hrun
    refine ⟨_, _, _, _, _, qs ++ [.rxRead, .rxRead] ++ qs', ?_, hrun, s.cfg.marker :: size :: bs, b, rfl,
      Env.rxRead_cons rfl, Memory.holds_putAll m 0 (s.cfg.marker :: size :: bs), .inl ⟨rfl, ?_, ?_⟩⟩
    · rw [writesOf_append, writesOf_append, hqs, hqs']; rfl
    · show (bs ++ [b]).length + 2 = 2 + size.toNat
      simp only [List.length_append, List.length_singleton]
      omega
    · show cnt'.toNat + 1 = size.toNat
      have hzero : (0 : Len).toNat = 0 := rfl
      omega

/-- R133, R136: LOCATE in session up to its first read. -/
theorem locate_begins (c : Len) (lim : Time) (hidle : s.ustate = .idle) (hphase : s.phase = .connected)
    (hticks : s.env.ticks = d :: ticks) :
    Relation.ReflTransGen (Continues (.locate c lim)) s
      ({ s with rspPending := false, dl := s.env.now + d + lim, locMax := c }.hearing (.locate c lim) .huntRead
        (s.env.heard s.env.rx ticks (s.env.now + d) [.now, .rxRead]) s.rxf s.locNeed s.locCnt) := by
  obtain ⟨-, haccept, -⟩ := locateSetsItsDeadline c lim s
  obtain ⟨-, -, hdeadline⟩ := locateSetsItsDeadline c lim
    ({ s with rspPending := false }.issue (.locate c lim) .locateNow .now)
  have hnow : ({ s with rspPending := false }.issue (.locate c lim) .locateNow .now).env.readNow = _ :=
    Env.readNow_cons hticks
  rw [hnow] at hdeadline
  refine .head ⟨haccept hidle hphase, nofun⟩ (.single ⟨(hdeadline rfl).trans ?_, nofun⟩)
  simp [State.hearing, State.issue, State.setEnv, State.setUstate, Env.heard]

end

end Sys2Proof.Machine
end

section
open Sys2Proof Sys2Proof.Machine

/-- Settles O40: from its first read the procedure comes to the answer that completes the frame, with which LOCATE
ends. -/
theorem locateFindsTheFirstFrame : Obligations.LocateFindsTheFirstFrame := by
  unfold Obligations.LocateFindsTheFirstFrame
  intro s c lim d0 ds junk body size rest hidle hphase hjunk hbody hfit hticks hlen htime hrx
  have htime : ds = [] ∨ s.env.now + d0 + ds.sum < s.env.now + d0 + lim := htime.imp_right (Nat.add_lt_add_left · _)
  obtain ⟨k, e, m, need, cnt, qs, -, hstream, hcomplete⟩ := stream_completes
    (s := { s with rspPending := false, dl := s.env.now + d0 + lim, locMax := c })
    (e := s.env.heard s.env.rx ds (s.env.now + d0) [.now, .rxRead]) (m := s.rxf) (need := s.locNeed) (cnt := s.locCnt)
    (i := .locate c lim) rfl hjunk hbody hfit hrx (ds.append_nil.symm) hlen htime
  obtain ⟨fuel, hfinish⟩ := finishes_of_continues ((locate_begins c lim hidle hphase hticks).trans hstream)
    (exec_locate_completes rfl hcomplete) rfl
  refine ⟨fuel, _, hfinish, ?_, rfl, rfl, rfl, rfl, rfl, rfl, rfl, rfl, rfl, rfl⟩
  simp [State.answered, hbody]

end

section
/-! SUPPORT. The commands of timer_comparator, one step at a time (spec/42_timer.md R161, R162), and the deadline every
locate procedure sets for itself (spec/41_frame_codec.md R133). -/

namespace Sys2Proof.Machine

section
variable {s : State} {i : Instr}

/-! ## IS_ELAPSED -/

/-- R162: in IDLE the command asks for the time. -/
theorem exec_isElapsed_issue (hidle : s.ustate = .idle) :
    exec .isElapsed s = .next ({ s with rspPending := false }.issue .isElapsed .elapsedNow .now) :=
  exec_idle hidle .isElapsed

theorem bitByte_elapsed (now dl : Time) : bitByte (elapsed now dl) = if dl ≤ now then 1 else 0 := by
  simp only [bitByte, elapsed_eq_true]

/-- R162: the answer is the comparison of the time read with `dl`. -/
theorem exec_isElapsed_answer (hbusy : s.ustate = .busy .isElapsed .elapsedNow) :
    exec .isElapsed s = .next ({ s with env := s.env.readNow.2 }.answered
      { v := if s.dl ≤ s.env.readNow.1 then 1 else 0 }) := by
  rw [exec_busy hbusy, ← bitByte_elapsed]
  rfl

/-- R162: time does not go back, so a deadline that the last reading had reached is answered with 1. -/
theorem exec_isElapsed_reached (hbusy : s.ustate = .busy .isElapsed .elapsedNow) (h : s.dl ≤ s.env.now) :
    exec .isElapsed s = .next ({ s with env := s.env.readNow.2 }.answered { v := 1 }) := by
  have hle : s.dl ≤ s.env.readNow.1 := h.trans s.env.readNow_frame.1
  rw [exec_isElapsed_answer hbusy, if_pos hle]

/-! ## SET_DEADLINE -/

/-- R161: `dl` is the time read plus the operand, and the answer is `dl`. -/
theorem exec_setDeadline_answer {d : Time} (hbusy : s.ustate = .busy (.setDeadline d) .deadlineNow) :
    exec (.setDeadline d) s = .next ({ s with
      dl := s.env.readNow.1 + d
      env := s.env.readNow.2 }.answered { t := s.env.readNow.1 + d }) :=
  exec_busy hbusy

/-! ## The deadline of the locate procedure -/

/-- R133: whatever `dl` held, a command that runs the procedure sets it to the time read plus its own limit. -/
theorem exec_locateNow {max : Len} {limit : Time} {go : LocateResult → State → Out}
    (hrun : exec i s = s.runLocate i max limit .locateNow go) :
    exec i s = .next ({ s with
      dl := s.env.readNow.1 + limit
      locMax := max
      env := s.env.readNow.2 }.issue i .huntRead .rxRead) := by
  rw [hrun, State.runLocate, locateStep, orFault_ok]
  rfl

/-- R176: SEND_RELIABLE waits for an acknowledgement for `2 * TX_WAIT`. -/
theorem exec_sendReliable_locateNow {n : Len} {p : List Byte}
    (hbusy : s.ustate = .busy (.sendReliable n p) .locateNow) :
    exec (.sendReliable n p) s = .next ({ s with
      dl := s.env.readNow.1 + 2 * s.cfg.txWait
      locMax := rxFrameMax
      env := s.env.readNow.2 }.issue (.sendReliable n p) .huntRead .rxRead) :=
  exec_locateNow (go := sendReturn (.sendReliable n p)) (exec_busy hbusy)

/-- R177, R178: a receive waits for a frame for `RX_WAIT`. -/
theorem exec_recv_locateNow {c : Len} (hi : i = .recvBasic c ∨ i = .recvReliable c)
    (hbusy : s.ustate = .busy i .locateNow) :
    exec i s = .next ({ s with
      dl := s.env.readNow.1 + s.cfg.rxWait
      locMax := rxFrameMax
      env := s.env.readNow.2 }.issue i .huntRead .rxRead) := by
  rcases hi with rfl | rfl
  · exact exec_locateNow (go := recvBasicReturn c) (exec_busy hbusy)
  · exact exec_locateNow (go := recvReliableReturn c) (exec_busy hbusy)

end

end Sys2Proof.Machine
end

section
open Sys2Proof Sys2Proof.Machine

/-- Settles O41: the steps of SET_DEADLINE; with a zero operand the deadline is the time just read, which IS_ELAPSED
finds reached; and every locate procedure sets its own. -/
theorem setDeadlineSetsDl : Obligations.SetDeadlineSetsDl := by
  unfold Obligations.SetDeadlineSetsDl
  intro d s
  refine ⟨rfl, fun hidle => exec_idle hidle _, exec_setDeadline_answer, fun hbusy => ?_, fun c lim hbusy => ?_,
    fun n p hbusy => ⟨_, exec_sendReliable_locateNow hbusy, rfl⟩,
    fun c i hi hbusy => ⟨_, exec_recv_locateNow hi hbusy, rfl⟩⟩
  · have hnow : s.env.readNow.1 + 0 ≤ s.env.readNow.2.now := s.env.readNow_frame.2.1.ge
    exact ⟨_, _, _, exec_setDeadline_answer hbusy, exec_isElapsed_issue rfl, exec_isElapsed_reached rfl hnow, rfl, rfl⟩
  · obtain ⟨-, -, hdeadline⟩ := locateSetsItsDeadline c lim s
    exact ⟨_, hdeadline hbusy, rfl⟩

/-- Settles O42: the steps of IS_ELAPSED; a deadline of 0 has been reached at any time. -/
theorem isElapsedTestsTheDeadline : Obligations.IsElapsedTestsTheDeadline := by
  unfold Obligations.IsElapsedTestsTheDeadline
  intro s
  refine ⟨rfl, exec_isElapsed_issue, fun hbusy => ⟨exec_isElapsed_answer hbusy, fun h => ?_⟩⟩
  have hreached : s.dl ≤ s.env.now := h.elim id fun hzero => hzero ▸ Nat.zero_le _
  exact ⟨_, exec_isElapsed_reached hbusy hreached, rfl⟩

end

section
/-! SUPPORT. The session commands, the configuration query and the receives, up to their first wait (spec/43_arq.md R171,
R172, R177 to R179). -/

namespace Sys2Proof.Machine

variable {s : State}

/-- R222: a command of the engine without a data operand is answered NOT_CONNECTED outside a session. -/
theorem exec_notConnected {i : Instr} (hneeds : needsConnection i = true) (hdata : dataLength i = none)
    (hwf : i.wf = true) (hidle : s.ustate = .idle) (hphase : s.phase = .disconnected) :
    exec i s = .next (s.answered { status := .notConnected }) :=
  (checksAreMadeInOrder i s hwf hidle).1 _ (by simp [firstCause, hneeds, hdata, hphase])

/-- `XOpen` or `XClose`, with its answer known. -/
theorem State.ctrlAnswer_of {r : CtrlAnswer} {e : Env} (h : s.env.ctrlAnswer = (r, e)) :
    s.ctrlAnswer = (r, s.setEnv e) := by
  rw [State.ctrlAnswer_eq, h]

/-- R172: the last step of DISCONNECT. -/
theorem exec_disconnect_report {r : CtrlAnswer} (hbusy : s.ustate = .busy .disconnect (.disconnectNow r)) :
    exec .disconnect s = .next ({ s with env := s.env.readNow.2, phase := .disconnected }.answered
      (disconnectResponse r (s.ctr.report (s.env.readNow.1 - s.connStart)))) :=
  exec_busy hbusy

/-- R7: the optimum block size fits a byte. -/
theorem optBlock_toNat (cfg : Config) : (BitVec.ofNat 8 cfg.optBlock).toNat = cfg.optBlock := by
  obtain ⟨-, -, hblock, hopt, -⟩ := cfg.valid_iff
  rw [BitVec.toNat_ofNat]
  omega

end Sys2Proof.Machine
end

section
open Sys2Proof Sys2Proof.Machine

/-- Settles O43: acceptance by the Connection State, the two answers of the open, and the reading of the time. -/
theorem connectStartsASession : Obligations.ConnectStartsASession := by
  unfold Obligations.ConnectStartsASession
  intro a s
  refine ⟨rfl, fun hidle hphase => ?_, fun hidle hphase => ?_, fun x e hbusy hanswer => ?_,
    fun e hbusy hanswer => ?_, fun hbusy => exec_busy hbusy⟩
  · exact (checksAreMadeInOrder (.connect a) s rfl hidle).1 _ (by simp [firstCause, dataLength, needsConnection, hphase])
  · have hopen : (s.setRspPending false).phase ≠ .connected := by simp [hphase]
    rw [exec_idle hidle, startOf, connectStart, if_neg hopen]
    rfl
  · rw [exec_busy hbusy, resumeOf, connectResume, State.ctrlAnswer_of hanswer]
    rfl
  · rw [exec_busy hbusy, resumeOf, connectResume, State.ctrlAnswer_of hanswer]
    rfl

/-- Settles O44: acceptance by the Connection State, then the two readings; the answer of the close decides only the
response. -/
theorem disconnectReportsAndEndsTheSession : Obligations.DisconnectReportsAndEndsTheSession := by
  unfold Obligations.DisconnectReportsAndEndsTheSession
  intro s
  refine ⟨rfl, exec_notConnected rfl rfl rfl, fun hidle hphase => ?_, fun r e hbusy hanswer => ?_,
    fun r rep hbusy hrep => ?_⟩
  · rw [exec_idle hidle, startOf, disconnectStart, State.needConnected_ok (s := s.setRspPending false) hphase]
    rfl
  · rw [exec_busy hbusy, resumeOf, disconnectResume, State.ctrlAnswer_of hanswer]
    rfl
  · have hexec := exec_disconnect_report hbusy
    subst hrep
    refine ⟨?_, fun x => ?_⟩ <;> (rintro rfl; exact hexec)

/-- Settles O45: the command has one step, and R7 bounds its value. -/
theorem getOptBlockAnswersTheConstant : Obligations.GetOptBlockAnswersTheConstant := by
  unfold Obligations.GetOptBlockAnswersTheConstant
  intro s hidle
  exact ⟨rfl, BitVec.ofNat 8 s.cfg.optBlock, optBlock_toNat s.cfg, by rw [exec_idle hidle]; rfl⟩

/-- Settles O54: acceptance by the Connection State, then the deadline of the first attempt. -/
theorem receivesBeginToWait : Obligations.ReceivesBeginToWait := by
  unfold Obligations.ReceivesBeginToWait
  intro c s
  refine ⟨fun hidle hphase => ⟨exec_notConnected rfl rfl rfl hidle hphase, exec_notConnected rfl rfl rfl hidle hphase⟩,
    fun hidle hphase => ⟨?_, ?_⟩, fun i hi hbusy => exec_recv_locateNow hi hbusy⟩
  · rw [exec_idle hidle, startOf, recvBasicStart, State.needConnected_ok (s := s.setRspPending false) hphase]
    rfl
  · rw [exec_idle hidle, startOf, recvReliableStart, State.needConnected_ok (s := s.setRspPending false) hphase]
    rfl

end

section
/-! SUPPORT. The writes of the engine: what follows each answer to a `TxWrite`, the acknowledgement, and the frame that a
send offers (spec/43_arq.md R173 to R176, R178). -/

namespace Sys2Proof.Machine

variable {s : State} {e : Env} {len : Nat} {n : Len} {d f p : List Byte} {i : Instr}

/-! ## The answers to a write -/

/-- A count is the length asked for, and the command goes on, or it is short. -/
theorem State.afterWrite_count {k : Nat} (h : s.env.txWrite len = .ok (.count k, e)) (go : State → Out) :
    s.afterWrite len go =
      if k < len then .next ({ s with env := e }.answered { status := .incomplete }) else go { s with env := e } := by
  rw [State.afterWrite, State.txAnswer, h]
  rfl

/-- A complete write goes on. -/
theorem State.afterWrite_all (h : s.env.txWrite len = .ok (.count len, e)) (go : State → Out) :
    s.afterWrite len go = go { s with env := e } := by
  rw [State.afterWrite_count h, if_neg (Nat.lt_irrefl len)]

/-- A short or failed write ends the command, and changes nothing else (R175, R176, D31, D32). -/
theorem State.afterWrite_aborts (s : State) (len : Nat) (go : State → Out) :
    (∀ k e, s.env.txWrite len = .ok (.count k, e) → k < len →
      s.afterWrite len go = .next ({ s with env := e }.answered { status := .incomplete })) ∧
    ∀ x e, s.env.txWrite len = .ok (.err x, e) →
      s.afterWrite len go = .next ({ s with env := e }.answered { status := .transportError, x := x }) := by
  refine ⟨fun k e h hk => ?_, fun x e h => ?_⟩
  · rw [State.afterWrite_count h, if_pos hk]
  · rw [State.afterWrite, State.txAnswer, h]
    rfl

/-! ## The acknowledgement (R82, R173) -/

/-- A completely written acknowledgement is counted, and the command goes on. -/
theorem State.afterAck_all {kind : AckKind} (h : s.env.txWrite 5 = .ok (.count 5, e)) (go : State → Out) :
    s.afterAck kind go = go ({ s with env := e }.inc (sentCounter kind)) :=
  State.afterWrite_all (len := ackLen) h _

/-- A short or failed write of an acknowledgement ends the command, with nothing counted. -/
theorem State.afterAck_aborts (s : State) (kind : AckKind) (go : State → Out) :
    (∀ k e, s.env.txWrite 5 = .ok (.count k, e) → k < 5 →
      s.afterAck kind go = .next ({ s with env := e }.answered { status := .incomplete })) ∧
    ∀ x e, s.env.txWrite 5 = .ok (.err x, e) →
      s.afterAck kind go = .next ({ s with env := e }.answered { status := .transportError, x := x }) :=
  s.afterWrite_aborts ackLen _

/-- The checksum of an acknowledgement as an exact sum. -/
theorem ackChecksum_toNat (seq st : Byte) :
    (checksumOf 0x03#8 seq [st]).toNat = (3 + seq.toNat + st.toNat) % 250 :=
  checksumOf_toNat 0x03#8 seq [st]

theorem State.ackBuilt_holds (s : State) (kind : AckKind) (seq : Byte) :
    (s.ackBuilt kind seq).akf.holds 0 (ackBytes s.cfg kind seq) = true :=
  Memory.holds_putAll _ _ _

/-- R174: in session SEND_ACK builds its frame and offers it. -/
theorem exec_sendAck_issue (a : Byte) (kind : AckKind) (hidle : s.ustate = .idle) (hphase : s.phase = .connected) :
    exec (.sendAck a kind) s = .next (((s.setRspPending false).ackBuilt kind a).issue (.sendAck a kind) .ackWrite
      (.txWrite (ackBytes s.cfg kind a))) := by
  rw [exec_idle hidle, startOf, sendAckStart, State.needConnected_ok (s := s.setRspPending false) hphase,
    State.callAck_ok, orFault_ok]
  rfl

/-! ## The frame of a send (R80, R175, R176) -/

/-- R80: the size byte of a payload that fits. -/
theorem sizeByte_toNat (h : p.length ≤ 253) : (sizeByte p).toNat = p.length + 2 := by
  simp only [sizeByte, sizeOverhead, BitVec.toNat_ofNat]
  omega

theorem zext8_toNat (q : SeqNum) : (zext8 q).toNat = q.toNat := by
  rw [zext8, BitVec.toNat_setWidth_of_le (by decide)]

/-- Frame `f` stands ready in `txf`: an attempt offers exactly it (R176, "the same bytes on every attempt"). -/
structure State.Offers (s : State) (f : List Byte) : Prop where
  holds : s.txf.holds 0 f = true
  len : s.txfLen.toNat = f.length
  max : f.length ≤ 257

/-- Whatever else has changed, the frame stands ready while `txf` and `txf_len` have not. -/
theorem State.Offers.keep {t : State} (h : s.Offers f) (htxf : t.txf = s.txf := by rfl)
    (hlen : t.txfLen = s.txfLen := by rfl) : t.Offers f :=
  ⟨htxf ▸ h.holds, hlen ▸ h.len, h.max⟩

/-- One attempt offers the frame that stands ready. -/
theorem State.Offers.sendAttempt (h : s.Offers f) (i : Instr) :
    sendAttempt i s = .next (s.issue i .frameWrite (.txWrite f)) := by
  rw [Machine.sendAttempt, State.callFrameWrite_ok h.holds h.len h.max, orFault_ok]

/-- `Encode` leaves the frame of its payload ready. -/
theorem State.encoded_offers (s : State) (seq : Byte) (h : p.length ≤ 253) :
    (s.encoded p seq).Offers (frameBytes s.cfg.marker seq p) :=
  have hlen := frameBytes_length s.cfg.marker seq p
  ⟨s.encoded_holds p seq, (lenOf_frame h).trans hlen.symm, by omega⟩

/-- What the frame of `tx_seq` and a payload is, and what else of `txf` its encoding leaves (R80, R130). -/
theorem State.encoded_spec (s : State) (h : p.length ≤ 253) :
    (sizeByte p).toNat = p.length + 2 ∧
      (s.encoded p (zext8 s.txSeq)).csAcc.toNat =
        ((sizeByte p).toNat + s.txSeq.toNat + byteSum p) % 250 ∧
      (s.encoded p (zext8 s.txSeq)).txfLen.toNat = p.length + 4 ∧
      (s.encoded p (zext8 s.txSeq)).txf.holds 0 (frameBytes s.cfg.marker (zext8 s.txSeq) p) = true ∧
      ∀ j, p.length + 4 ≤ j → (s.encoded p (zext8 s.txSeq)).txf.get? j = s.txf.get? j := by
  have hsum := checksumOf_toNat (sizeByte p) (zext8 s.txSeq) p
  rw [zext8_toNat] at hsum
  refine ⟨sizeByte_toNat h, hsum, lenOf_frame h, s.encoded_holds _ _, fun j hj => Memory.get?_putAll_ge _ _ ?_⟩
  rw [frameBytes_length]
  omega

/-- In session a payload of at most MAX_BLOCK bytes passes the checks and is encoded. -/
theorem sendChecked_ok (hwf : dataWf n d = true) (hphase : s.phase = .connected) (hblock : n.toNat ≤ s.cfg.maxBlock)
    (go : State → Out) : sendChecked n d s go = go (s.encoded d (zext8 s.txSeq)) ∧ d.length ≤ 253 := by
  have hmax : n.toNat ≤ 253 := hblock.trans s.cfg.valid_iff.2.2.1
  have hn : n.toNat ≤ 257 := by omega
  have hlen : d.length ≤ 253 := dataWf_length hwf hn ▸ hmax
  refine ⟨?_, hlen⟩
  rw [sendChecked, State.needOperand_ok hn, State.needConnected_ok hphase, State.needBlock_ok hblock,
    State.encode_ok _ _ hlen, orFault_ok]

/-- R176: a complete write is counted, and the wait begins. -/
theorem exec_sendReliable_written (hbusy : s.ustate = .busy (.sendReliable n d) .frameWrite)
    (h : s.env.txWrite s.txfLen.toNat = .ok (.count s.txfLen.toNat, e)) :
    exec (.sendReliable n d) s =
      .next (({ s with env := e }.inc .framesSent).issue (.sendReliable n d) .locateNow .now) := by
  rw [exec_busy hbusy, resumeOf, sendReliableResume, State.afterWrite_all h]
  rfl

variable (hwf : dataWf n d = true) (hidle : s.ustate = .idle) (hphase : s.phase = .connected)
  (hblock : n.toNat ≤ s.cfg.maxBlock)
include hwf hidle hphase hblock

/-- R175: in session SEND_BASIC encodes its payload and offers the frame. -/
theorem exec_sendBasic_issue :
    exec (.sendBasic n d) s = .next ({ s with
      rspPending := false
      txf := (s.encoded d (zext8 s.txSeq)).txf
      txfLen := (s.encoded d (zext8 s.txSeq)).txfLen
      csAcc := (s.encoded d (zext8 s.txSeq)).csAcc }.issue (.sendBasic n d) .frameWrite
        (.txWrite (frameBytes s.cfg.marker (zext8 s.txSeq) d))) ∧ d.length ≤ 253 := by
  obtain ⟨hchecked, hmax⟩ := sendChecked_ok (s := s.setRspPending false) hwf hphase hblock
    (sendAttempt (.sendBasic n d))
  refine ⟨?_, hmax⟩
  rw [exec_idle hidle]
  refine (hchecked.trans ((State.encoded_offers _ _ hmax).sendAttempt _)).trans ?_
  simp [State.encoded, State.setRspPending, State.setCsAcc, State.setTxf, State.setTxfLen]

/-- R176: in session SEND_RELIABLE encodes its payload and begins its first attempt. -/
theorem exec_sendReliable_issue :
    exec (.sendReliable n d) s = .next ({ s with
      rspPending := false
      txf := (s.encoded d (zext8 s.txSeq)).txf
      txfLen := (s.encoded d (zext8 s.txSeq)).txfLen
      csAcc := (s.encoded d (zext8 s.txSeq)).csAcc
      tries := 1 }.issue (.sendReliable n d) .frameWrite
        (.txWrite (frameBytes s.cfg.marker (zext8 s.txSeq) d))) ∧ d.length ≤ 253 := by
  obtain ⟨hchecked, hmax⟩ := sendChecked_ok (s := s.setRspPending false) hwf hphase hblock
    fun u => sendAttempt (.sendReliable n d) (u.setTries 1)
  have hready := (s.setRspPending false).encoded_offers (zext8 s.txSeq) hmax
  refine ⟨?_, hmax⟩
  rw [exec_idle hidle, startOf, sendReliableStart, hchecked, hready.keep.sendAttempt]
  simp [State.encoded, State.setRspPending, State.setCsAcc, State.setTxf, State.setTxfLen, State.setTries]

end Sys2Proof.Machine
end

section
open Sys2Proof Sys2Proof.Machine

/-- Settles O46: five bytes always fit `akf`, and a complete write is counted by the kind. -/
theorem sendAckSendsFiveBytes : Obligations.SendAckSendsFiveBytes := by
  unfold Obligations.SendAckSendsFiveBytes
  intro a kind s
  refine ⟨fun b => rfl, exec_notConnected rfl rfl rfl, fun hidle hphase => ?_, fun hbusy => ?_⟩
  · refine ⟨statusByte s.cfg kind, checksumOf 0x03#8 a [statusByte s.cfg kind], (s.ackBuilt kind a).akf,
      by cases kind <;> rfl, ackChecksum_toNat _ _, exec_sendAck_issue a kind hidle hphase, s.ackBuilt_holds kind a,
      fun j hj => Memory.get?_putAll_ge _ _ (by simpa [ackBytes] using hj)⟩
  · rw [exec_busy hbusy, resumeOf, sendAckResume]
    refine ⟨fun e h hkind => ?_, fun e h hkind => ?_, s.afterAck_aborts kind _⟩
    all_goals
      subst hkind
      rw [State.afterAck_all h]
      rfl

/-- Settles O47: the checks in their order, the encoded frame offered once, and what follows each answer to its
write. -/
theorem sendBasicSendsOnce : Obligations.SendBasicSendsOnce := by
  unfold Obligations.SendBasicSendsOnce
  intro n d s hwf
  refine ⟨rfl, fun hidle => (checksAreMadeInOrder (.sendBasic n d) s hwf hidle).1, fun hidle hphase hblock => ?_,
    fun hbusy => ?_⟩
  · obtain ⟨hexec, hmax⟩ := exec_sendBasic_issue hwf hidle hphase hblock
    obtain ⟨hsize, hsum, hlen, hholds, hkeep⟩ := s.encoded_spec hmax
    exact ⟨_, _, _, _, _, hsize, hsum, hlen, rfl, hexec, hholds, hkeep⟩
  · rw [exec_busy hbusy, resumeOf, sendBasicResume]
    refine ⟨fun e h => ?_, s.afterWrite_aborts _ _⟩
    rw [State.afterWrite_all h]
    rfl

/-- Settles O48: the encoded frame offered as the first attempt, what follows each answer to its write, and the deadline
of the wait. -/
theorem sendReliableTransmits : Obligations.SendReliableTransmits := by
  unfold Obligations.SendReliableTransmits
  intro n d s hwf
  refine ⟨fun hidle hphase hblock => ?_, fun hbusy => ?_, exec_sendReliable_locateNow⟩
  · obtain ⟨hexec, hmax⟩ := exec_sendReliable_issue hwf hidle hphase hblock
    obtain ⟨hsize, hsum, hlen, hholds, hkeep⟩ := s.encoded_spec hmax
    exact ⟨_, _, _, _, _, hsize, hsum, hlen, rfl, hexec, hholds, hkeep⟩
  · refine ⟨fun e h => exec_sendReliable_written hbusy h, ?_⟩
    rw [exec_busy hbusy, resumeOf, sendReliableResume]
    exact s.afterWrite_aborts _ _

/-- Settles O58: what follows each answer to the write of an acknowledgement, by the kind that was offered. -/
theorem recvReliableAcceptsAfterACompleteAck : Obligations.RecvReliableAcceptsAfterACompleteAck := by
  unfold Obligations.RecvReliableAcceptsAfterACompleteAck
  intro c s k hbusy
  rw [exec_busy hbusy, resumeOf]
  refine ⟨?_, ?_, ?_⟩
  · rintro seq p e rfl h
    rw [recvReliableResume, State.afterAck_all h]
    rfl
  · rintro e rfl h
    rw [recvReliableResume, State.afterAck_all h]
    refine ⟨fun htries => ?_, fun htries => ?_⟩
    · rw [State.nextAttempt_again (by exact htries)]
      rfl
    · rw [State.nextAttempt_last (by exact htries)]
      rfl
  · rintro (rfl | ⟨seq, p, rfl⟩) <;> rw [recvReliableResume]
    · exact s.afterAck_aborts .neg _
    · exact s.afterAck_aborts .pos _

end

section
/-! SUPPORT. What the engine does with the result of its locate procedure (spec/43_arq.md R176 to R178): a frame that is
verified and read, or none. -/

namespace Sys2Proof.Machine

/-! ## The result -/

/-- What each command that runs the locate procedure does with its result. -/
def returnOf : Instr → LocateResult → State → Out
  | .locate _ _ => locateReturn
  | .sendReliable n d => sendReturn (.sendReliable n d)
  | .recvBasic c => recvBasicReturn c
  | .recvReliable c => recvReliableReturn c
  | _ => fun _ _ => .fault .strayPoint

section
variable {s t : State} {i : Instr} {k : Point} {f : List Byte} {e : Env} {n c : Len} {d : List Byte}

/-- Inside the procedure a command runs it on. -/
theorem exec_eq_runLocate (hi : usesLocate i = true) (hbusy : s.ustate = .busy i k) (hk : inLocate k = true) :
    ∃ max limit, exec i s = s.runLocate i max limit k (returnOf i) := by
  rw [exec_busy hbusy]
  cases i <;> cases hi
  case locate c lim => exact ⟨_, _, rfl⟩
  case sendReliable n d => exact ⟨_, _, sendReliableResume_inLocate hk⟩
  case recvBasic c => exact ⟨_, _, rfl⟩
  case recvReliable c => exact ⟨_, _, recvReliableResume_inLocate hk⟩

/-- Where the procedure returns, the command goes on with its result. -/
theorem exec_of_returns {r : LocateResult} (hi : usesLocate i = true) (hbusy : s.ustate = .busy i k)
    (h : ∀ max limit, locateStep i max limit k s = .ok (.returns r t)) : exec i s = returnOf i r t := by
  obtain ⟨max, limit, hrun⟩ := exec_eq_runLocate hi hbusy (locateStep_inLocate (h 0 0))
  rw [hrun, State.runLocate, h, orFault_ok]

theorem State.completes.exec (h : s.completes k f e) (hi : usesLocate i = true) (hbusy : s.ustate = .busy i k) :
    exec i s = returnOf i (.frame f.length) (s.located f e) :=
  exec_of_returns hi hbusy fun _ _ => locateStep_completes h

theorem State.findsNone.exec (h : s.findsNone k t) (hi : usesLocate i = true) (hbusy : s.ustate = .busy i k) :
    exec i s = returnOf i .noFrame t :=
  exec_of_returns hi hbusy fun _ _ => locateStep_findsNone h

/-- What the procedure has written when it finds no frame. -/
theorem State.findsNone_eq (h : s.findsNone k t) :
    ∃ e m need, t = { s with env := e, rxf := m, locNeed := need } := by
  obtain ⟨-, -, rfl⟩ | ⟨-, b, e, -, -, rfl⟩ := h
  · exact ⟨_, _, _, rfl⟩
  · exact ⟨_, _, _, rfl⟩

/-- A located frame is verified (R111). -/
theorem State.completes.verify (h : s.completes k f e) :
    ∃ acc, (s.located f e).verify f.length = .ok (goodFrame f, (s.located f e).setCsAcc acc) :=
  State.verify_holds h.holds h.length_le.2

/-- R111, of a frame written out. -/
theorem goodFrame_iff :
    goodFrame f = true ↔ 4 ≤ f.length ∧ byteSum ((f.drop 1).dropLast) % 250 = (f.getLastD 0).toNat := by
  rw [goodFrame_eq, decide_eq_true_iff]

/-! ## SEND_RELIABLE (R176) -/

theorem positiveAck_iff {cfg : Config} {st : List Byte} : positiveAck cfg st = true ↔ st = [cfg.statusAck] :=
  beq_iff_eq

/-- A bad response is counted and retried. -/
theorem exec_sendReliable_bad (hbusy : s.ustate = .busy (.sendReliable n d) k) (h : s.completes k f e)
    (hbad : goodFrame f = false) :
    ∃ acc, exec (.sendReliable n d) s =
      (((s.located f e).setCsAcc acc).inc .badRcvd).nextAttempt (sendAttempt (.sendReliable n d)) := by
  obtain ⟨acc, hverify⟩ := h.verify
  refine ⟨acc, ?_⟩
  rw [h.exec rfl hbusy, returnOf, sendReturn, hverify, orFault_ok, hbad]

/-- A good response is counted; its status byte and its number decide whether the command ends. -/
theorem exec_sendReliable_good (hbusy : s.ustate = .busy (.sendReliable n d) k) (h : s.completes k f e)
    (hgood : goodFrame f = true) {positive : Bool} (hstatus : positiveAck s.cfg ((payloadOf f).take 1) = positive) :
    ∃ acc, exec (.sendReliable n d) s =
      if positive = true ∧ seqOf f = zext8 s.txSeq then
        .next ((((s.located f e).setCsAcc acc).inc (rcvdCounter positive)).advanceTxSeq.respond {})
      else
        (((s.located f e).setCsAcc acc).inc (rcvdCounter positive)).nextAttempt
          (sendAttempt (.sendReliable n d)) := by
  obtain ⟨acc, hverify⟩ := h.verify
  refine ⟨acc, ?_⟩
  subst hstatus
  rw [h.exec rfl hbusy, returnOf, sendReturn, hverify, orFault_ok, hgood]
  dsimp only
  rw [sendResponse, State.decode_ok (s := (s.located f e).setCsAcc acc) h.holds (goodFrame_length hgood) h.length_le.2,
    orFault_ok]
  rfl

end

end Sys2Proof.Machine
end

section
open Sys2Proof Sys2Proof.Machine

/-- Settles O49: the frame is Good, its first payload byte and its number are the ones awaited. -/
theorem sendReliableAcceptsTheAcknowledgement : Obligations.SendReliableAcceptsTheAcknowledgement := by
  unfold Obligations.SendReliableAcceptsTheAcknowledgement
  intro n d s k f e hbusy hcomplete hmin hsum hack hseq
  obtain ⟨acc, hexec⟩ := exec_sendReliable_good hbusy hcomplete (goodFrame_iff.2 ⟨hmin, hsum⟩) (positiveAck_iff.2 hack)
  refine ⟨acc, hexec.trans ?_⟩
  rw [if_pos ⟨rfl, hseq⟩]
  rfl

/-- Settles O50: each result but the match ends the attempt with its counter, and the frame that the next attempt offers
is the one the invariant says stands in `txf`. -/
theorem sendReliableRetriesTheSameFrame : Obligations.SendReliableRetriesTheSameFrame := by
  unfold Obligations.SendReliableRetriesTheSameFrame
  intro n d s t k c hinv hbusy hcase
  obtain ⟨-, -, -, -, hblock, htxfLen, hholds⟩ := (State.inv_busy_iff hbusy).1 hinv
  have hmax := hblock.trans s.cfg.valid_iff.2.2.1
  have hlen := frameBytes_length s.cfg.marker (zext8 s.txSeq) d
  have hready : s.Offers (frameBytes s.cfg.marker (zext8 s.txSeq) d) := ⟨hholds, by omega, by omega⟩
  obtain ⟨⟨acc, hexec⟩, e, m, len, need, cnt, acc', rfl⟩ :
      (∃ acc, exec (.sendReliable n d) s =
        ({ t with csAcc := acc }.inc c).nextAttempt (sendAttempt (.sendReliable n d))) ∧
      ∃ e m len need cnt acc, t = { s with
        env := e, rxf := m, rxfLen := len, locNeed := need, locCnt := cnt, csAcc := acc } := by
    rcases hcase with ⟨rfl, hnone⟩ | ⟨f, e, hcomplete, ⟨acc, rfl⟩, hresponse⟩
    · obtain ⟨e, m, need, rfl⟩ := State.findsNone_eq hnone
      exact ⟨⟨s.csAcc, hnone.exec rfl hbusy⟩, e, m, s.rxfLen, need, s.locCnt, s.csAcc, rfl⟩
    · refine ⟨?_, _, _, _, _, _, _, rfl⟩
      simp only [← goodFrame_iff, ← and_assoc (a := 4 ≤ f.length)] at hresponse
      rcases hresponse with ⟨rfl, hbad⟩ | ⟨hgood, ⟨rfl, hack, hseq⟩ | ⟨rfl, hnack⟩⟩
      · exact exec_sendReliable_bad hbusy hcomplete (Bool.eq_false_iff.2 hbad)
      · obtain ⟨acc, hexec⟩ := exec_sendReliable_good hbusy hcomplete hgood (positiveAck_iff.2 hack)
        exact ⟨acc, hexec.trans (if_neg fun h => hseq h.2)⟩
      · obtain ⟨acc, hexec⟩ := exec_sendReliable_good hbusy hcomplete hgood
          (Bool.eq_false_iff.2 fun h => hnack (positiveAck_iff.1 h))
        exact ⟨acc, hexec.trans (if_neg nofun)⟩
  refine ⟨acc, fun htries => ?_, fun htries => ?_⟩
  · rw [hexec, State.nextAttempt_again (by exact htries), hready.keep.sendAttempt]
    rfl
  · rw [hexec, State.nextAttempt_last (by exact htries)]
    rfl

end

section
/-! SUPPORT. What the receives do with the result of their locate procedure (spec/43_arq.md R177, R178). -/

namespace Sys2Proof.Machine

variable {s t : State} {k : Point} {f : List Byte} {e : Env} {c : Len}

/-! ## RECV_BASIC (R177) -/

/-- R85: the length of what a capacity has cut. -/
theorem lenField_truncated_eq (p : List Byte) (c : Len) :
    lenField (truncated p c) = BitVec.ofNat 9 (min c.toNat p.length) := by
  rw [lenField, truncated_length]

/-- A bad frame is answered with the sentinel, a good one with its payload. -/
theorem exec_recvBasic_frame (hbusy : s.ustate = .busy (.recvBasic c) k) (h : s.completes k f e) :
    ∃ acc, exec (.recvBasic c) s =
      if goodFrame f = true then
        .next ((((s.located f e).setCsAcc acc).inc .goodRcvd).respond
          { n := BitVec.ofNat 9 (min c.toNat (f.length - 4)), d := (payloadOf f).take c.toNat })
      else
        .next ((((s.located f e).setCsAcc acc).inc .badRcvd).respond
          { n := BitVec.ofNat 9 (min c.toNat s.cfg.corruptSentinel.length)
            d := s.cfg.corruptSentinel.take c.toNat }) := by
  obtain ⟨acc, hverify⟩ := h.verify
  refine ⟨acc, ?_⟩
  rw [h.exec rfl hbusy, returnOf, recvBasicReturn, hverify, orFault_ok]
  cases hgood : goodFrame f with
  | false =>
    dsimp only
    rw [if_neg nofun, lenField_truncated_eq]
    rfl
  | true =>
    dsimp only
    rw [if_pos rfl, State.decode_ok (s := ((s.located f e).setCsAcc acc).inc .goodRcvd) h.holds
      (goodFrame_length hgood) h.length_le.2, orFault_ok, lenField_truncated_eq, payloadOf_length]
    rfl

/-! ## RECV_RELIABLE (R178) -/

/-- The byte a NAK echoes: the frame's, or 0 where the frame has none there. -/
theorem echoSeq_ok (hholds : s.rxf.holds 0 f = true) : echoSeq f.length s = .ok (seqOf f) := by
  unfold echoSeq
  split
  · rename_i h3
    have hbyte := (Memory.holds_iff _ _ _).1 hholds 2 h3
    rw [Nat.zero_add] at hbyte
    rw [seqOf, List.getD_eq_getElem _ _ h3]
    exact State.memRead_ok (by simp [BufName.size]) hbyte
  · rename_i h3
    rw [seqOf, List.getD_eq_default _ _ (by omega)]

theorem refuseFrame_eq (c : Len) (seq : Byte) (s : State) :
    refuseFrame c seq s = .next ((s.ackBuilt .neg seq).issue (.recvReliable c) .ackWrite
      (.txWrite (ackBytes s.cfg .neg seq))) := by
  rw [refuseFrame, State.callAck_ok, orFault_ok]

/-- Only the expected number is acknowledged; a duplicate and a frame out of order are refused alike. -/
theorem recvGood_eq (hholds : s.rxf.holds 0 f = true) (hmin : 4 ≤ f.length) (hmax : f.length ≤ 257) :
    recvGood c f.length s =
      if seqOf f = zext8 s.expected then
        .next ((s.ackBuilt .pos (seqOf f)).issue (.recvReliable c)
          (.acceptWrite (seqOf f) ((payloadOf f).take c.toNat)) (.txWrite (ackBytes s.cfg .pos (seqOf f))))
      else
        .next ((s.ackBuilt .neg (seqOf f)).issue (.recvReliable c) .ackWrite
          (.txWrite (ackBytes s.cfg .neg (seqOf f)))) := by
  rw [recvGood, State.decode_ok hholds hmin hmax, orFault_ok]
  dsimp only
  rw [State.callAck_ok, orFault_ok, refuseFrame_eq, ite_self]
  rfl

/-- The state in which RECV_RELIABLE has answered located frame `f`, which it has counted, with an acknowledgement. -/
def State.answering (s : State) (f : List Byte) (e : Env) (count : Counter) (kind : AckKind) : State :=
  { s.located f e with
    akf := s.akf.putAll 0 (ackBytes s.cfg kind (seqOf f))
    csAcc := checksumOf 0x03#8 (seqOf f) [statusByte s.cfg kind]
    ctr := s.ctr.bump count }

theorem State.answering_eq (s : State) (f : List Byte) (e : Env) (count : Counter) (kind : AckKind) (acc : Byte) :
    (((s.located f e).setCsAcc acc).inc count).ackBuilt kind (seqOf f) = s.answering f e count kind := by
  simp [State.ackBuilt, State.inc, State.setCsAcc, State.setCtr, State.setAkf, State.answering, State.located]

/-- A bad frame is refused. -/
theorem exec_recvReliable_bad (hbusy : s.ustate = .busy (.recvReliable c) k) (h : s.completes k f e)
    (hbad : goodFrame f = false) :
    exec (.recvReliable c) s = .next ((s.answering f e .badRcvd .neg).issue (.recvReliable c) .ackWrite
      (.txWrite (ackBytes s.cfg .neg (seqOf f)))) := by
  obtain ⟨acc, hverify⟩ := h.verify
  rw [h.exec rfl hbusy, returnOf, recvReliableReturn, hverify, orFault_ok, hbad]
  dsimp only
  rw [echoSeq_ok (s := ((s.located f e).setCsAcc acc).inc .badRcvd) h.holds, orFault_ok, refuseFrame_eq,
    State.answering_eq]
  rfl

/-- A good frame with the expected number is acknowledged, any other refused. -/
theorem exec_recvReliable_good (hbusy : s.ustate = .busy (.recvReliable c) k) (h : s.completes k f e)
    (hgood : goodFrame f = true) :
    exec (.recvReliable c) s =
      if seqOf f = zext8 s.expected then
        .next ((s.answering f e .goodRcvd .pos).issue (.recvReliable c)
          (.acceptWrite (seqOf f) ((payloadOf f).take c.toNat)) (.txWrite (ackBytes s.cfg .pos (seqOf f))))
      else
        .next ((s.answering f e .goodRcvd .neg).issue (.recvReliable c) .ackWrite
          (.txWrite (ackBytes s.cfg .neg (seqOf f)))) := by
  obtain ⟨acc, hverify⟩ := h.verify
  rw [h.exec rfl hbusy, returnOf, recvReliableReturn, hverify, orFault_ok, hgood]
  dsimp only
  rw [recvGood_eq (s := ((s.located f e).setCsAcc acc).inc .goodRcvd) h.holds (goodFrame_length hgood) h.length_le.2,
    State.answering_eq, State.answering_eq]
  rfl

/-- The kind of the acknowledgement a located frame gets: positive where it is good and has number `q`. -/
def ackKindFor (f : List Byte) (q : SeqNum) : AckKind :=
  if goodFrame f = true ∧ seqOf f = zext8 q then .pos else .neg

end Sys2Proof.Machine
end

section
open Sys2Proof Sys2Proof.Machine

/-- Settles O55: both receives count the wait and end the attempt. -/
theorem receiveTimeoutsAreCountedAndRetried : Obligations.ReceiveTimeoutsAreCountedAndRetried := by
  unfold Obligations.ReceiveTimeoutsAreCountedAndRetried
  intro c i s t k hi hbusy hnone
  have hexec : exec i s = (t.inc .timeouts).nextAttempt (recvAttempt i) := by
    rcases hi with rfl | rfl <;> exact hnone.exec rfl hbusy
  obtain ⟨e, m, need, rfl⟩ := State.findsNone_eq hnone
  refine ⟨fun htries => ?_, fun htries => ?_⟩
  · rw [hexec, State.nextAttempt_again (by exact htries)]
    rfl
  · rw [hexec, State.nextAttempt_last (by exact htries)]
    rfl

/-- Settles O56: the verdict on the frame chooses the payload or the sentinel. -/
theorem recvBasicAnswersPayloadOrSentinel : Obligations.RecvBasicAnswersPayloadOrSentinel := by
  unfold Obligations.RecvBasicAnswersPayloadOrSentinel
  intro c s k f e hbusy hcomplete
  obtain ⟨acc, hexec⟩ := exec_recvBasic_frame hbusy hcomplete
  refine ⟨acc, fun hgood => ?_, fun hbad => ?_⟩
  · rw [hexec, if_pos (goodFrame_iff.2 hgood)]
    rfl
  · rw [hexec, if_neg (mt goodFrame_iff.1 hbad)]
    rfl

/-- Settles O57: the invariant ties the expected number to `rx_last`, and the verdict and the number choose the kind. -/
theorem recvReliableAnswersEveryFrame : Obligations.RecvReliableAnswersEveryFrame := by
  unfold Obligations.RecvReliableAnswersEveryFrame
  intro c s k f e hinv hbusy hcomplete
  obtain ⟨-, -, -, hexp, -⟩ := (State.inv_busy_iff hbusy).1 hinv
  have hseq : (s.rxLast + 1).setWidth 8 = zext8 s.expected := by rw [hexp]; rfl
  let kind := ackKindFor f s.expected
  refine ⟨s.akf.putAll 0 (ackBytes s.cfg kind (seqOf f)), checksumOf 0x03#8 (seqOf f) [statusByte s.cfg kind],
    fun j hj => Memory.get?_putAll_ge _ _ (by simpa [ackBytes] using hj), fun hgood hnum => ?_, fun hgood hnum => ?_,
    fun hbad => ?_⟩
  · have hg := goodFrame_iff.2 hgood
    rw [hseq] at hnum
    have hkind : kind = .pos := if_pos ⟨hg, hnum⟩
    rw [hkind, exec_recvReliable_good hbusy hcomplete hg]
    exact ⟨Memory.holds_putAll _ _ _, if_pos hnum⟩
  · have hg := goodFrame_iff.2 hgood
    rw [hseq] at hnum
    have hkind : kind = .neg := if_neg fun h => hnum h.2
    rw [hkind, exec_recvReliable_good hbusy hcomplete hg]
    exact ⟨Memory.holds_putAll _ _ _, if_neg hnum⟩
  · have hg := mt goodFrame_iff.1 hbad
    have hkind : kind = .neg := if_neg fun h => hg h.1
    rw [hkind]
    exact ⟨Memory.holds_putAll _ _ _, exec_recvReliable_bad hbusy hcomplete (Bool.eq_false_iff.2 hg)⟩

end

section
/-! SUPPORT. The clean exchange (spec/43_arq.md R176, R178): each side from acceptance to its first read, and the frame
that stands next in the stream, whichever command reads it. -/

namespace Sys2Proof.Machine

variable {s t : State} {i : Instr} {c n : Len} {d p : List Byte} {q : Byte} {rest : List RxAnswer}
  {txs : List TxAnswer}

/-- A command that waits in the procedure is one that has heard what it has heard. -/
theorem State.hearing_self {k : Point} (h : t.ustate = .busy i k) :
    t.hearing i k t.env t.rxf t.locNeed t.locCnt = t := by
  rw [State.hearing, ← h]

/-- A command that has issued a request goes on. -/
theorem continues_of_issue {u : State} {k : Point} {r : Request} (h : exec i s = .next (u.issue i k r)) :
    Continues i s (u.issue i k r) :=
  ⟨h, nofun⟩

@[simp] theorem writesOf_txWrite (qs : List Request) (bytes : List Byte) :
    writesOf (qs ++ [.txWrite bytes]) = writesOf qs ++ [bytes] := by
  simp [writesOf]

@[simp] theorem writesOf_now (qs : List Request) : writesOf (qs ++ [.now]) = writesOf qs := by
  simp [writesOf]

@[simp] theorem writesOf_rxRead (qs : List Request) : writesOf (qs ++ [.rxRead]) = writesOf qs := by
  simp [writesOf]

/-- R133: a command of the engine whose wait begins comes to the answer that completes the frame next in the stream. It
has then offered nothing, and written none of the registers named here. -/
theorem wait_completes {x : Time} (hi : usesLocate i = true)
    (hexec : exec i s = .next ({ s with dl := x, locMax := rxFrameMax, env := s.env.readNow.2 }.issue i .huntRead .rxRead))
    (hp : p.length ≤ 253) (hrx : s.env.rx = (frameBytes s.cfg.marker q p).map RxAnswer.byte ++ rest) :
    ∃ k u e, Relation.ReflTransGen (Continues i) s u ∧ u.ustate = .busy i k ∧
      u.completes k (frameBytes s.cfg.marker q p) e ∧
      (u.cfg = s.cfg ∧ u.txSeq = s.txSeq ∧ u.rxLast = s.rxLast ∧ u.ctr = s.ctr ∧ u.expected = s.expected) ∧
      e.rx = rest ∧ e.tx = s.env.tx ∧ writesOf e.log = writesOf s.env.log := by
  have hsize := sizeByte_toNat hp
  have hfit : (257#9).toNat = 257 := rfl
  have hbegin := continues_of_issue hexec
  obtain ⟨-, -, -, -, -, hnowRx, hnowTx, -, hnowLog⟩ := s.env.readNow_frame
  generalize ht : State.issue _ i .huntRead .rxRead = t at hbegin
  obtain ⟨hbusy, hmax, hmarker, htx, hlog⟩ : t.ustate = .busy i .huntRead ∧ t.locMax = rxFrameMax ∧
      t.env.rx = s.env.rx ∧ t.env.tx = s.env.tx ∧ writesOf t.env.log = writesOf s.env.log := by
    subst ht
    exact ⟨rfl, rfl, hnowRx, hnowTx, by simp [hnowLog]⟩
  obtain ⟨hcfg, hseq⟩ : t.cfg = s.cfg ∧ t.txSeq = s.txSeq ∧ t.rxLast = s.rxLast ∧ t.ctr = s.ctr ∧
      t.expected = s.expected := by
    subst ht
    exact ⟨rfl, rfl, rfl, rfl, rfl⟩
  obtain ⟨k, e, m, need, cnt, qs, hqs, hrun, hcomplete⟩ := stream_completes (s := t) (e := t.env) (m := t.rxf)
    (need := t.locNeed) (cnt := t.locCnt) (junk := []) (ds := []) (ticks := t.env.ticks) (size := sizeByte p)
    (body := q :: (p ++ [checksumOf (sizeByte p) q p])) hi List.not_mem_nil (by simp [hsize])
    (by rw [hmax, rxFrameMax, hfit]; omega) (by rw [hmarker, hrx, hcfg]; rfl) rfl rfl (.inl rfl)
  rw [State.hearing_self hbusy] at hrun
  rw [hcfg] at hcomplete
  refine ⟨k, _, _, .head hbegin hrun, rfl, hcomplete, ⟨hcfg, hseq⟩, rfl, htx, ?_⟩
  rw [Env.heard, writesOf_append, hqs, List.append_nil, hlog]

/-- R176: SEND_RELIABLE in session, its frame written completely, up to its wait. -/
theorem sendReliable_begins (hlen : n.toNat = d.length) (hidle : s.ustate = .idle) (hphase : s.phase = .connected)
    (hblock : d.length ≤ s.cfg.maxBlock) (htx : s.env.tx = .count (d.length + 4) :: txs) :
    ∃ t, Relation.ReflTransGen (Continues (.sendReliable n d)) s t ∧
      t.ustate = .busy (.sendReliable n d) .locateNow ∧
      (t.cfg = s.cfg ∧ t.txSeq = s.txSeq ∧ t.rxLast = s.rxLast ∧ t.ctr = s.ctr.bump .framesSent) ∧
      t.env.rx = s.env.rx ∧ t.env.tx = txs ∧
      writesOf t.env.log = writesOf s.env.log ++ [frameBytes s.cfg.marker (zext8 s.txSeq) d] := by
  have hwf : dataWf n d = true := by simp [dataWf, hlen]
  obtain ⟨hissue, hmax⟩ := exec_sendReliable_issue hwf hidle hphase (hlen ▸ hblock)
  have hoffered := continues_of_issue hissue
  generalize ht : State.issue _ (.sendReliable n d) .frameWrite _ = t at hoffered
  obtain ⟨hbusy, htxfLen, htxs, hlog⟩ : t.ustate = .busy (.sendReliable n d) .frameWrite ∧
      t.txfLen.toNat = d.length + 4 ∧ t.env.tx = .count (d.length + 4) :: txs ∧
      writesOf t.env.log = writesOf s.env.log ++ [frameBytes s.cfg.marker (zext8 s.txSeq) d] := by
    subst ht
    exact ⟨rfl, lenOf_frame hmax, htx, writesOf_txWrite _ _⟩
  obtain ⟨hcfg, htxSeq, hrxLast, hctr, hrx⟩ : t.cfg = s.cfg ∧ t.txSeq = s.txSeq ∧ t.rxLast = s.rxLast ∧
      t.ctr = s.ctr ∧ t.env.rx = s.env.rx := by
    subst ht
    exact ⟨rfl, rfl, rfl, rfl, rfl⟩
  have hwritten := continues_of_issue
    (exec_sendReliable_written hbusy (Env.txWrite_count (htxfLen ▸ htxs) (Nat.le_refl _)))
  exact ⟨_, .head hoffered (.single hwritten), rfl, ⟨hcfg, htxSeq, hrxLast, hctr ▸ rfl⟩, hrx, rfl,
    (writesOf_now _).trans hlog⟩

/-- R178: RECV_RELIABLE in session up to its wait. -/
theorem recvReliable_begins (c : Len) (hidle : s.ustate = .idle) (hphase : s.phase = .connected) :
    ∃ t, Continues (.recvReliable c) s t ∧ t.ustate = .busy (.recvReliable c) .locateNow ∧
      (t.cfg = s.cfg ∧ t.txSeq = s.txSeq ∧ t.rxLast = s.rxLast ∧ t.ctr = s.ctr ∧ t.expected = s.rxLast + 1) ∧
      t.env.rx = s.env.rx ∧ t.env.tx = s.env.tx ∧ writesOf t.env.log = writesOf s.env.log := by
  obtain ⟨-, hbegin, -⟩ := receivesBeginToWait c s
  obtain ⟨-, hissue⟩ := hbegin hidle hphase
  exact ⟨_, continues_of_issue hissue, rfl, ⟨rfl, rfl, rfl, rfl, rfl⟩, rfl, rfl, writesOf_now _⟩

end Sys2Proof.Machine
end

section
open Sys2Proof Sys2Proof.Machine

/-- Settles O53: past its write the command comes to the answer that completes the acknowledgement, which is the match. -/
theorem cleanExchange : Obligations.CleanExchange := by
  unfold Obligations.CleanExchange
  intro n d s d0 ds rest txs hlen hidle hphase hblock htx hticks hrx
  obtain ⟨t, hbegin, hbusy, ⟨hcfg, htxSeq, hrxLast, hctr⟩, htRx, htTx, htLog⟩ :=
    sendReliable_begins hlen hidle hphase hblock htx
  obtain ⟨k, u, e, hwait, hubusy, hcomplete, ⟨hucfg, hutxSeq, hurxLast, huctr, -⟩, heRx, heTx, heLog⟩ :=
    wait_completes (q := zext8 s.txSeq) (p := [s.cfg.statusAck]) (rest := rest) rfl (exec_sendReliable_locateNow hbusy)
      (by simp) (by rw [htRx, hrx, hcfg]; rfl)
  obtain ⟨acc, hexec⟩ := exec_sendReliable_good hubusy hcomplete (goodFrame_frameBytes _ _ _)
    (positiveAck_iff.2 (by rw [payloadOf_frameBytes, hucfg, hcfg]; rfl))
  rw [if_pos ⟨rfl, by rw [seqOf_frameBytes, hutxSeq, htxSeq]⟩] at hexec
  obtain ⟨fuel, hfinish⟩ := finishes_of_continues (hbegin.trans hwait) hexec rfl
  refine ⟨fuel, _, hfinish, ?_⟩
  simp [State.located, nextSeq, rcvdCounter, Counters.bump, hutxSeq, htxSeq, hurxLast, hrxLast, huctr, hctr, heRx, heTx,
    htTx, heLog, htLog]

/-- Settles O60: the command comes to the answer that completes the frame, which has the expected number, and its ACK is
written completely. -/
theorem receiveDeliversTheExpectedFrame : Obligations.ReceiveDeliversTheExpectedFrame := by
  unfold Obligations.ReceiveDeliversTheExpectedFrame
  intro c p s d0 ds rest txs hidle hphase hp htx hticks hrx
  obtain ⟨t, hbegin, hbusy, ⟨hcfg, htxSeq, hrxLast, hctr, hexp⟩, htRx, htTx, htLog⟩ :=
    recvReliable_begins c hidle hphase
  obtain ⟨k, u, e, hwait, hubusy, hcomplete, ⟨hucfg, hutxSeq, hurxLast, huctr, huexp⟩, heRx, heTx, heLog⟩ :=
    wait_completes (q := zext8 (s.rxLast + 1)) (p := p) (rest := rest) rfl (exec_recv_locateNow (.inr rfl) hbusy) hp
      (by rw [htRx, hrx, hcfg])
  have hexec := exec_recvReliable_good hubusy hcomplete (goodFrame_frameBytes _ _ _)
  rw [seqOf_frameBytes, payloadOf_frameBytes, if_pos (by rw [huexp, hexp])] at hexec
  have hack := continues_of_issue hexec
  generalize hv : State.issue _ (.recvReliable c) _ _ = v at hack
  obtain ⟨hvbusy, hvtx⟩ : v.ustate = .busy (.recvReliable c) (.acceptWrite (zext8 (s.rxLast + 1)) (p.take c.toNat)) ∧
      v.env.tx = .count 5 :: txs := by
    subst hv
    exact ⟨rfl, heTx.trans (htTx.trans htx)⟩
  obtain ⟨hvtxSeq, hvctr, hvrx, hvlog⟩ : v.txSeq = s.txSeq ∧ v.ctr = s.ctr.bump .goodRcvd ∧ v.env.rx = rest ∧
      writesOf v.env.log = writesOf s.env.log ++ [ackBytes s.cfg .pos (zext8 (s.rxLast + 1))] := by
    subst hv
    refine ⟨hutxSeq.trans htxSeq, ?_, heRx, ?_⟩
    · simp [State.answering, huctr, hctr]
    · simp [State.answering, State.located, heLog, htLog, hucfg, hcfg]
  obtain ⟨haccept, -⟩ := recvReliableAcceptsAfterACompleteAck c v _ hvbusy
  obtain ⟨fuel, hfinish⟩ := finishes_of_continues ((hwait.head hbegin).tail hack)
    (haccept _ _ _ rfl (Env.txWrite_count hvtx (Nat.le_refl 5))) rfl
  refine ⟨fuel, _, hfinish, ?_⟩
  refine ⟨by simp [State.answered], rfl, lowSeq_zext8 _, hvtxSeq, hvrx, rfl, ?_, hvlog⟩
  simp [State.answered, hvctr, Counters.bump]

end

section
/-! SUPPORT. Whole runs, whatever the environment answers: the induction over the steps of a command, and what each
shared operation can lead to (spec/43_arq.md R176, R178). -/

namespace Sys2Proof.Machine

/-- An answer that ends a command in a state with `Q`, or goes on to one with `P`; or a stop, with which no run
finishes. -/
def leadsTo (P Q : State → Prop) : Out → Prop
  | .next t => (t.ustate = .idle → Q t) ∧ (t.ustate ≠ .idle → P t)
  | .fault _ => True
  | .refused _ => True

section
variable {P Q : State → Prop} {i : Instr} {s t u : State} {go : State → Out}

/-- The induction over a run: where the first step leads to `P` or ends with `Q`, and each step from `P` does, the run
ends with `Q`. -/
theorem finishes_of_leadsTo (hstep : ∀ t, P t → leadsTo P Q (exec i t)) {fuel : Nat} (hfirst : leadsTo P Q (exec i s))
    (h : finishes i fuel s = some u) : Q u := by
  induction fuel generalizing s with
  | zero => cases h
  | succ fuel ih =>
    rw [finishes] at h
    cases hexec : exec i s with
    | fault f => simp [hexec] at h
    | refused r => simp [hexec] at h
    | next t =>
      rw [hexec] at h hfirst
      obtain ⟨hends, hgoes⟩ := hfirst
      dsimp only at h
      split at h
      · cases h
        exact hends ‹_›
      · exact ih (hstep t (hgoes ‹_›)) h

theorem leadsTo_respond {r : Response} (h : Q (t.respond r)) : leadsTo P Q (.next (t.respond r)) :=
  ⟨fun _ => h, fun hbusy => absurd rfl hbusy⟩

theorem leadsTo_issue {k : Point} {q : Request} (h : P (t.issue i k q)) : leadsTo P Q (.next (t.issue i k q)) :=
  ⟨nofun, fun _ => h⟩

theorem leadsTo_orFault {α : Type} {x : Except Fault α} {go : α → Out} (hgo : ∀ a, x = .ok a → leadsTo P Q (go a)) :
    leadsTo P Q (orFault x go) := by
  cases x with
  | ok a => exact hgo a rfl
  | error f => trivial

/-- The response of a command that fails for any reason but its last attempt: no OK, no GIVE_UP, no data. -/
structure Response.Aborts (r : Response) : Prop where
  notOk : r.status ≠ .ok
  notGiveUp : r.status ≠ .giveUp
  noData : r.d = []

/-- A write is complete, or the command aborts, or the transport has broken its duty. -/
theorem leadsTo_afterWrite {len : Nat}
    (habort : ∀ e r, s.env.answersTo e → r.Aborts → Q ((s.setEnv e).respond r))
    (hgo : ∀ e, s.env.answersTo e → leadsTo P Q (go (s.setEnv e))) : leadsTo P Q (s.afterWrite len go) := by
  rcases s.afterWrite_cases len go with ⟨e, he, -, heq⟩ | ⟨k, e, he, -, -, heq⟩ | ⟨x, e, he, -, heq⟩ |
    ⟨k, -, heq⟩ <;> rw [heq]
  · exact hgo e (Env.txWrite_answersTo he)
  · exact leadsTo_respond (habort e _ (Env.txWrite_answersTo he) ⟨nofun, nofun, rfl⟩)
  · exact leadsTo_respond (habort e _ (Env.txWrite_answersTo he) ⟨nofun, nofun, rfl⟩)
  · trivial

/-- `s` after a step of `Locate`: what the procedure writes has changed, and the environment has answered. -/
def State.LocatesTo (s v : State) : Prop :=
  ∃ e dl max need cnt m len, s.env.answersTo e ∧ v = (s.afterLocate e dl max need cnt m).setRxfLen len

/-- The procedure waits again, having offered nothing, or the command goes on with its result. -/
theorem leadsTo_runLocate {k : Point} {max : Len} {limit : Time} {go : LocateResult → State → Out}
    (hwait : ∀ v k' q, s.LocatesTo v → inLocate k' = true → writesOf (v.env.log ++ [q]) = writesOf v.env.log →
      P (v.issue i k' q))
    (hgo : ∀ r v, s.LocatesTo v → leadsTo P Q (go r v)) : leadsTo P Q (s.runLocate i max limit k go) := by
  refine leadsTo_orFault fun r hr => ?_
  obtain ⟨e, dl, max', need, cnt, m, heffect, -, hform⟩ := locateStep_form hr
  have he : s.env.answersTo e := by
    rcases heffect.env with ⟨-, -, rfl⟩ | ⟨-, -, rfl⟩
    · exact s.env.rxRead_answersTo
    · exact s.env.readNow_answersTo
  cases r with
  | waits t =>
    obtain ⟨k', q, hk', hq, rfl⟩ := hform
    refine leadsTo_issue (hwait _ k' q ⟨e, dl, max', need, cnt, m, s.rxfLen, he, rfl⟩ hk' ?_)
    rcases hq with rfl | rfl
    · exact writesOf_now _
    · exact writesOf_rxRead _
  | returns r t =>
    obtain ⟨len, rfl, -⟩ := hform
    exact hgo r _ ⟨e, dl, max', need, cnt, m, len, he, rfl⟩

end

/-! ## SEND_RELIABLE (R176) -/

/-- A run of SEND_RELIABLE from `s` has come to `t`: it has offered its frame `f`, and nothing else, once in each attempt
so far, and the frame still stands ready. -/
structure State.Sending (s : State) (f : List Byte) (t : State) : Prop where
  cfg : t.cfg = s.cfg
  phase : t.phase = s.phase
  txSeq : t.txSeq = s.txSeq
  rxLast : t.rxLast = s.rxLast
  ready : t.Offers f
  started : 1 ≤ t.tries
  bounded : t.tries ≤ s.cfg.maxTries
  writes : writesOf t.env.log = writesOf s.env.log ++ List.replicate t.tries f

/-- How a run of SEND_RELIABLE from `s` with frame `f` has ended in `u`: it has offered the frame `m` times. -/
def State.SentTo (s : State) (f : List Byte) (u : State) : Prop :=
  ∃ m : Nat, m ≤ s.cfg.maxTries ∧ writesOf u.env.log = writesOf s.env.log ++ List.replicate m f ∧
    (u.rsp.status = .giveUp → m = s.cfg.maxTries) ∧ (u.rsp.status = .ok → 1 ≤ m ∧ u.txSeq = s.txSeq + 1) ∧
    (u.rsp.status ≠ .ok → u.txSeq = s.txSeq) ∧ u.rxLast = s.rxLast ∧ u.phase = s.phase

/-- The run waits in BUSY. -/
def State.SendingIn (s : State) (i : Instr) (f : List Byte) (t : State) : Prop :=
  s.Sending f t ∧ ∃ k, t.ustate = .busy i k

section
variable {s t u : State} {i : Instr} {f : List Byte} {n : Len} {d : List Byte}

/-- Writes to other registers, and answers of the environment, stay within the run. -/
theorem State.Sending.keep (h : s.Sending f t) (hcfg : u.cfg = t.cfg := by rfl) (hphase : u.phase = t.phase := by rfl)
    (htxSeq : u.txSeq = t.txSeq := by rfl) (hrxLast : u.rxLast = t.rxLast := by rfl) (htxf : u.txf = t.txf := by rfl)
    (htxfLen : u.txfLen = t.txfLen := by rfl) (htries : u.tries = t.tries := by rfl)
    (hwrites : writesOf u.env.log = writesOf t.env.log := by rfl) : s.Sending f u :=
  ⟨hcfg.trans h.cfg, hphase.trans h.phase, htxSeq.trans h.txSeq, hrxLast.trans h.rxLast, h.ready.keep htxf htxfLen,
    htries ▸ h.started, htries ▸ h.bounded, by rw [hwrites, htries, h.writes]⟩

theorem State.Sending.setEnv (h : s.Sending f t) {e : Env} (he : t.env.answersTo e) : s.Sending f (t.setEnv e) :=
  h.keep (hwrites := congrArg writesOf he.log)

theorem State.Sending.located (h : s.Sending f t) (hu : t.LocatesTo u) : s.Sending f u := by
  obtain ⟨e, dl, max, need, cnt, m, len, he, rfl⟩ := hu
  exact h.keep (hwrites := congrArg writesOf he.log)

/-- The command aborts in the attempt it has come to. -/
theorem State.Sending.aborts (h : s.Sending f t) {r : Response} (hr : r.Aborts) : s.SentTo f (t.respond r) :=
  ⟨t.tries, h.bounded, h.writes, fun hgive => absurd hgive hr.notGiveUp, fun hok => absurd hok hr.notOk,
    fun _ => h.txSeq, h.rxLast, h.phase⟩

/-- The frame is offered again, or the attempts are used up. -/
theorem State.Sending.nextAttempt (h : s.Sending f t) :
    leadsTo (s.SendingIn i f) (s.SentTo f) (t.nextAttempt (sendAttempt i)) := by
  rcases Nat.lt_or_ge t.tries t.cfg.maxTries with hlt | hge
  · rw [State.nextAttempt_again hlt, h.ready.keep.sendAttempt]
    refine leadsTo_issue ⟨⟨h.cfg, h.phase, h.txSeq, h.rxLast, h.ready.keep, Nat.le_add_left 1 _, h.cfg ▸ hlt, ?_⟩, _, rfl⟩
    exact (writesOf_txWrite _ _).trans (by simp [h.writes, List.replicate_succ'])
  · rw [State.nextAttempt_last hge]
    exact leadsTo_respond ⟨t.tries, h.bounded, h.writes, fun _ => Nat.le_antisymm h.bounded (h.cfg ▸ hge), nofun,
      fun _ => h.txSeq, h.rxLast, h.phase⟩

/-- R176 once `Locate` returns. -/
theorem State.Sending.sendReturn (h : s.Sending f t) (r : LocateResult) :
    leadsTo (s.SendingIn i f) (s.SentTo f) (sendReturn i r t) := by
  cases r with
  | transportErr x => exact leadsTo_respond (h.aborts ⟨nofun, nofun, rfl⟩)
  | noFrame => exact State.Sending.nextAttempt h.keep
  | frame len =>
    refine leadsTo_orFault fun ⟨good, v⟩ hverify => ?_
    obtain ⟨acc, rfl⟩ := State.verify_frame hverify
    cases good with
    | false => exact State.Sending.nextAttempt h.keep
    | true =>
      refine leadsTo_orFault fun ⟨st, aseq⟩ _ => ?_
      dsimp only
      split
      · refine leadsTo_respond ⟨t.tries, h.bounded, h.writes, nofun, fun _ => ⟨h.started, ?_⟩, fun hne => absurd rfl hne,
          h.rxLast, h.phase⟩
        exact congrArg nextSeq h.txSeq
      · exact State.Sending.nextAttempt h.keep

/-- Every step of the run stays within it, or ends it. -/
theorem State.SendingIn.step (h : s.SendingIn (.sendReliable n d) f t) :
    leadsTo (s.SendingIn (.sendReliable n d) f) (s.SentTo f) (exec (.sendReliable n d) t) := by
  obtain ⟨h, k, hbusy⟩ := h
  rw [exec_busy hbusy, resumeOf]
  unfold sendReliableResume
  split
  · exact leadsTo_afterWrite (fun e r he hr => (h.setEnv he).aborts hr) fun e he =>
      leadsTo_issue ⟨(h.setEnv he).keep (hwrites := writesOf_now _), _, rfl⟩
  · exact leadsTo_runLocate (fun v k' q hv _ hq => ⟨(h.located hv).keep (hwrites := hq), _, rfl⟩)
      fun r v hv => (h.located hv).sendReturn r

/-- R223: a send is refused for a cause that is neither OK nor GIVE_UP, or it executes in session. -/
theorem firstCause_sendReliable (s : State) (n : Len) (d : List Byte) :
    (∃ st, firstCause (.sendReliable n d) s = some st ∧ st ≠ .ok ∧ st ≠ .giveUp) ∨
      s.phase = .connected ∧ n.toNat ≤ s.cfg.maxBlock := by
  rcases Nat.lt_or_ge 257 n.toNat with hn | hn
  · exact .inl ⟨.badOperand, by simp [firstCause, dataLength, hn], nofun, nofun⟩
  cases hphase : s.phase with
  | disconnected =>
    exact .inl ⟨.notConnected, by simp [firstCause, dataLength, needsConnection, hphase, Nat.not_lt.2 hn], nofun, nofun⟩
  | connected =>
    rcases Nat.lt_or_ge s.cfg.maxBlock n.toNat with hblock | hblock
    · exact .inl ⟨.payloadTooLarge,
        by simp [firstCause, dataLength, needsConnection, hphase, hblock, Nat.not_lt.2 hn], nofun, nofun⟩
    · exact .inr ⟨rfl, hblock⟩

/-- The first step of the run. -/
theorem sendReliable_starts (hwf : dataWf n d = true) (hidle : s.ustate = .idle) :
    leadsTo (s.SendingIn (.sendReliable n d) (frameBytes s.cfg.marker (zext8 s.txSeq) d))
      (s.SentTo (frameBytes s.cfg.marker (zext8 s.txSeq) d)) (exec (.sendReliable n d) s) := by
  rcases firstCause_sendReliable s n d with ⟨st, hcause, hok, hgive⟩ | ⟨hphase, hblock⟩
  · rw [(checksAreMadeInOrder (.sendReliable n d) s hwf hidle).1 st hcause, ← State.respond_eq_answered]
    exact leadsTo_respond ⟨0, Nat.zero_le _, (List.append_nil _).symm, fun h => absurd h hgive, fun h => absurd h hok,
      fun _ => rfl, rfl, rfl⟩
  · obtain ⟨hissue, hmax⟩ := exec_sendReliable_issue hwf hidle hphase hblock
    rw [hissue]
    exact leadsTo_issue ⟨⟨rfl, rfl, rfl, rfl, (s.encoded_offers _ hmax).keep, Nat.le_refl 1, s.cfg.valid_iff.2.1,
      writesOf_txWrite _ _⟩, _, rfl⟩

end

end Sys2Proof.Machine
end

section
open Sys2Proof Sys2Proof.Machine

/-- Settles O52: every step of the run keeps `State.Sending`, whatever the environment answers. -/
theorem retryBound : Obligations.RetryBound := by
  unfold Obligations.RetryBound
  intro n d s u fuel hwf hidle hfinish
  exact finishes_of_leadsTo (fun t ht => ht.step) (sendReliable_starts hwf hidle) hfinish

end

section
/-! SUPPORT. A run of RECV_RELIABLE, whatever the environment answers (spec/43_arq.md R178): it offers NAKs, at most one
in each attempt, and then the ACK of the frame it delivers. -/

namespace Sys2Proof.Machine

/-- A run of RECV_RELIABLE from `s` has come to `t`: it has offered the frames `sent`, and the Connection State but for
the counters is as it was. -/
structure State.Receiving (s : State) (sent : List (List Byte)) (t : State) : Prop where
  cfg : t.cfg = s.cfg
  phase : t.phase = s.phase
  txSeq : t.txSeq = s.txSeq
  rxLast : t.rxLast = s.rxLast
  expected : t.expected = nextSeq s.rxLast
  bounded : t.tries ≤ s.cfg.maxTries
  writes : writesOf t.env.log = writesOf s.env.log ++ sent

/-- The NAKs of the numbers that were received. -/
def naksOf (cfg : Config) (seqs : List Byte) : List (List Byte) := seqs.map (ackBytes cfg .neg)

/-- Where the run waits in BUSY, and what it has offered there. -/
inductive State.ReceivingIn (s : State) (c : Len) (t : State) : Prop
  /-- in the procedure of an attempt, every earlier one of which has offered at most one NAK -/
  | locates (k : Point) (seqs : List Byte) (busy : t.ustate = .busy (.recvReliable c) k) (point : inLocate k = true)
      (run : s.Receiving (naksOf s.cfg seqs) t) (few : seqs.length < t.tries)
  /-- on the write of this attempt's NAK -/
  | refuses (seqs : List Byte) (busy : t.ustate = .busy (.recvReliable c) .ackWrite)
      (run : s.Receiving (naksOf s.cfg seqs) t) (few : seqs.length ≤ t.tries)
  /-- on the write of the ACK for the next block -/
  | accepts (p : List Byte) (seqs : List Byte)
      (busy : t.ustate = .busy (.recvReliable c) (.acceptWrite (zext8 (nextSeq s.rxLast)) p))
      (run : s.Receiving (naksOf s.cfg seqs ++ [ackBytes s.cfg .pos (zext8 (nextSeq s.rxLast))]) t)
      (few : seqs.length < t.tries) (fits : p.length ≤ c.toNat)

/-- How a run of RECV_RELIABLE from `s` with capacity `c` has ended in `u`. -/
def State.ReceivedTo (s : State) (c : Len) (u : State) : Prop :=
  u.txSeq = s.txSeq ∧ u.phase = s.phase ∧
    (u.rsp.status ≠ .ok → u.rxLast = s.rxLast ∧ u.rsp.d = []) ∧
    (u.rsp.status = .ok → u.rxLast = s.rxLast + 1 ∧ u.rsp.d.length ≤ c.toNat ∧
      ∃ seqs : List Byte, seqs.length < s.cfg.maxTries ∧
        writesOf u.env.log = writesOf s.env.log ++ naksOf s.cfg seqs ++
          [ackBytes s.cfg .pos (zext8 (s.rxLast + 1))])

section
variable {s t u : State} {c : Len} {sent : List (List Byte)} {seqs : List Byte}

/-- Writes to other registers, and answers of the environment, stay within the run. -/
theorem State.Receiving.keep (h : s.Receiving sent t) (hcfg : u.cfg = t.cfg := by rfl)
    (hphase : u.phase = t.phase := by rfl) (htxSeq : u.txSeq = t.txSeq := by rfl)
    (hrxLast : u.rxLast = t.rxLast := by rfl) (hexpected : u.expected = t.expected := by rfl)
    (htries : u.tries = t.tries := by rfl) (hwrites : writesOf u.env.log = writesOf t.env.log := by rfl) :
    s.Receiving sent u :=
  ⟨hcfg.trans h.cfg, hphase.trans h.phase, htxSeq.trans h.txSeq, hrxLast.trans h.rxLast, hexpected.trans h.expected,
    htries ▸ h.bounded, hwrites.trans h.writes⟩

theorem State.Receiving.setEnv (h : s.Receiving sent t) {e : Env} (he : t.env.answersTo e) :
    s.Receiving sent (t.setEnv e) :=
  h.keep (hwrites := congrArg writesOf he.log)

theorem State.Receiving.located (h : s.Receiving sent t) (hu : t.LocatesTo u) :
    s.Receiving sent u ∧ u.tries = t.tries := by
  obtain ⟨e, dl, max, need, cnt, m, len, he, rfl⟩ := hu
  exact ⟨h.keep (hwrites := congrArg writesOf he.log), rfl⟩

/-- An acknowledgement is one more frame offered. -/
theorem State.Receiving.acks (h : s.Receiving sent t) (kind : AckKind) (seq : Byte) (i : Instr) (k : Point) :
    s.Receiving (sent ++ [ackBytes s.cfg kind seq])
      ((t.ackBuilt kind seq).issue i k (.txWrite (ackBytes t.cfg kind seq))) :=
  ⟨h.cfg, h.phase, h.txSeq, h.rxLast, h.expected, h.bounded,
    (writesOf_txWrite _ _).trans (by rw [← List.append_assoc, ← h.writes, h.cfg]; rfl)⟩

/-- A response that is no OK delivers nothing. -/
theorem State.Receiving.fails (h : s.Receiving sent t) {r : Response} (hok : r.status ≠ .ok) (hdata : r.d = []) :
    s.ReceivedTo c (t.respond r) :=
  ⟨h.txSeq, h.phase, fun _ => ⟨h.rxLast, hdata⟩, fun h => absurd h hok⟩

/-- The next attempt begins, or the attempts are used up. -/
theorem State.Receiving.nextAttempt (h : s.Receiving (naksOf s.cfg seqs) t) (hfew : seqs.length ≤ t.tries) :
    leadsTo (s.ReceivingIn c) (s.ReceivedTo c) (t.nextAttempt (recvAttempt (.recvReliable c))) := by
  rcases Nat.lt_or_ge t.tries t.cfg.maxTries with hlt | hge
  · rw [State.nextAttempt_again hlt]
    exact leadsTo_issue (.locates .locateNow seqs rfl rfl ⟨h.cfg, h.phase, h.txSeq, h.rxLast, h.expected, h.cfg ▸ hlt,
      (writesOf_now _).trans h.writes⟩ (Nat.lt_succ_of_le hfew))
  · rw [State.nextAttempt_last hge]
    exact leadsTo_respond (h.fails nofun rfl)

/-- A frame is refused with the NAK of its number. -/
theorem State.Receiving.refuses (h : s.Receiving (naksOf s.cfg seqs) t) (hfew : seqs.length < t.tries) (seq : Byte) :
    leadsTo (s.ReceivingIn c) (s.ReceivedTo c) (refuseFrame c seq t) := by
  rw [refuseFrame_eq]
  refine leadsTo_issue (.refuses (seqs ++ [seq]) rfl ?_ (by rw [List.length_append]; exact hfew))
  rw [naksOf, List.map_append]
  exact h.acks .neg seq _ _

/-- Whatever stands in `rxf`, `Decode` cuts the payload to the capacity. -/
theorem State.decode_length {len : Nat} {cap : Len} {p : List Byte} {seq : Byte} (h : t.decode len cap = .ok (p, seq)) :
    p.length ≤ cap.toNat := by
  unfold State.decode at h
  split at h <;> cases h
  exact truncated_length_le _ _

/-- R178 once `Locate` returns. -/
theorem State.Receiving.recvReliableReturn (h : s.Receiving (naksOf s.cfg seqs) t) (hfew : seqs.length < t.tries)
    (r : LocateResult) : leadsTo (s.ReceivingIn c) (s.ReceivedTo c) (recvReliableReturn c r t) := by
  cases r with
  | transportErr x => exact leadsTo_respond (h.fails nofun rfl)
  | noFrame => exact State.Receiving.nextAttempt (t := t.inc .timeouts) h.keep hfew.le
  | frame len =>
    refine leadsTo_orFault fun ⟨good, v⟩ hverify => ?_
    obtain ⟨acc, rfl⟩ := State.verify_frame hverify
    cases good with
    | false => exact leadsTo_orFault fun e _ => State.Receiving.refuses (t := (t.setCsAcc acc).inc .badRcvd) h.keep hfew e
    | true =>
      have hgood : s.Receiving (naksOf s.cfg seqs) ((t.setCsAcc acc).inc .goodRcvd) := h.keep
      refine leadsTo_orFault fun ⟨p, seq⟩ hdecode => ?_
      dsimp only
      split
      · rename_i hseq
        rw [State.callAck_ok, orFault_ok]
        rw [hgood.expected] at hseq
        subst hseq
        exact leadsTo_issue (.accepts p seqs rfl (hgood.acks .pos _ _ _) hfew (State.decode_length hdecode))
      · rw [ite_self]
        exact hgood.refuses hfew seq

/-- Every step of the run stays within it, or ends it. -/
theorem State.ReceivingIn.step (h : s.ReceivingIn c t) :
    leadsTo (s.ReceivingIn c) (s.ReceivedTo c) (exec (.recvReliable c) t) := by
  cases h with
  | locates k seqs busy point run few =>
    rw [exec_busy busy, resumeOf, recvReliableResume_inLocate point]
    refine leadsTo_runLocate (fun v k' q hv hk' hq => ?_) fun r v hv => ?_
    · obtain ⟨hrun, htries⟩ := run.located hv
      exact .locates k' seqs rfl hk' (hrun.keep (hwrites := hq)) (htries ▸ few)
    · obtain ⟨hrun, htries⟩ := run.located hv
      exact hrun.recvReliableReturn (htries ▸ few) r
  | refuses seqs busy run few =>
    rw [exec_busy busy, resumeOf, recvReliableResume]
    exact leadsTo_afterWrite (fun e r he hr => (run.setEnv he).fails hr.notOk hr.noData) fun e he =>
      State.Receiving.nextAttempt (t := (t.setEnv e).inc .naksSent) (run.setEnv he).keep few
  | accepts p seqs busy run few fits =>
    rw [exec_busy busy, resumeOf, recvReliableResume]
    refine leadsTo_afterWrite (fun e r he hr => (run.setEnv he).fails hr.notOk hr.noData) fun e he => ?_
    have hsent := (run.setEnv he).writes
    exact leadsTo_respond ⟨run.txSeq, run.phase, fun hne => absurd rfl hne, fun _ => ⟨lowSeq_zext8 _, fits, seqs,
      few.trans_le run.bounded, hsent.trans (List.append_assoc _ _ _).symm⟩⟩

/-- The first step of the run. -/
theorem recvReliable_starts (c : Len) (hidle : s.ustate = .idle) :
    leadsTo (s.ReceivingIn c) (s.ReceivedTo c) (exec (.recvReliable c) s) := by
  obtain ⟨hrefused, hbegin, -⟩ := receivesBeginToWait c s
  cases hphase : s.phase with
  | disconnected =>
    rw [(hrefused hidle hphase).2, ← State.respond_eq_answered]
    exact leadsTo_respond ⟨rfl, rfl, fun _ => ⟨rfl, rfl⟩, nofun⟩
  | connected =>
    rw [(hbegin hidle hphase).2]
    exact leadsTo_issue (.locates .locateNow [] rfl rfl ⟨rfl, rfl, rfl, rfl, rfl, s.cfg.valid_iff.2.1,
      (writesOf_now _).trans (List.append_nil _).symm⟩ Nat.one_pos)

end

end Sys2Proof.Machine
end

section
open Sys2Proof Sys2Proof.Machine

/-- Settles O59: every step of the run keeps `State.ReceivingIn`, whatever the environment answers. -/
theorem receiveDeliversOnlyTheNextBlock : Obligations.ReceiveDeliversOnlyTheNextBlock := by
  unfold Obligations.ReceiveDeliversOnlyTheNextBlock
  intro c s u fuel hidle hfinish
  exact finishes_of_leadsTo (fun t ht => ht.step) (recvReliable_starts c hidle) hfinish

end

section
/-! SUPPORT. The host's turn (spec/60_exceptions.md R225, R234), and noninterference of the Connection State with the
unit commands (R222): each of their operations, with the Connection State replaced before it, answers what it answered,
with the Connection State replaced after it. -/

namespace Sys2Proof.Machine

/-! ## The host's turn -/

theorem stepRunning_takes {s : State} (hidle : s.ustate = .idle) (hpending : s.rspPending = true) :
    stepRunning s = .next s.takeResponse := by
  simp [stepRunning, hidle, hpending]

/-- R234: with no record presented the block waits. -/
theorem stepRunning_waits {s : State} (hidle : s.ustate = .idle) (hpending : s.rspPending = false)
    (hcmds : s.env.cmds = []) : stepRunning s = .next s := by
  simp [stepRunning, acceptNext, hidle, hpending, hcmds]

/-! ## Another Connection State -/

/-- `s` with another Connection State. -/
def State.withSession (s : State) (σ : Session) : State :=
  { s with phase := σ.phase, txSeq := σ.txSeq, rxLast := σ.rxLast, ctr := σ.ctr, connStart := σ.connStart }

/-- A computation that neither reads nor writes the Connection State. -/
def IgnoresSession (f : State → Out) : Prop :=
  ∀ (s : State) (σ : Session), f (s.withSession σ) = mapNext (·.withSession σ) (f s)

section
variable (s : State) (σ : Session)

theorem State.loadRxf_withSession (n : Len) (d : List Byte) :
    (s.withSession σ).loadRxf n d = (s.loadRxf n d).map (·.withSession σ) := by
  have hbuf : (s.withSession σ).buf .rxf = s.buf .rxf := rfl
  simp only [State.loadRxf, State.memWriteAll, hbuf]
  cases Memory.writeAll .rxf (s.buf .rxf) 0 d <;> rfl

theorem State.verify_withSession (len : Nat) :
    (s.withSession σ).verify len = (s.verify len).map (Prod.map id (·.withSession σ)) := by
  have hread : (s.withSession σ).memRead .rxf = s.memRead .rxf := rfl
  have hreadAll : (s.withSession σ).memReadAll .rxf = s.memReadAll .rxf := rfl
  simp only [State.verify, hread, hreadAll]
  split
  · rfl
  · cases s.memReadAll .rxf 1 (len - 2) <;> cases s.memRead .rxf (len - 1) <;> rfl

theorem State.encode_withSession (p : List Byte) (seq : Byte) :
    (s.withSession σ).encode p seq = (s.encode p seq).map (Option.map (·.withSession σ)) := by
  rcases Nat.lt_or_ge 253 p.length with hp | hp
  · simp only [State.encode_tooLarge _ seq hp]; rfl
  · simp only [State.encode_ok _ seq hp]; rfl

end

/-! ## Going on -/

/-- `orFault` carries a replacement through: a replaced answer leads to a replaced next state when it does so in every
continuation. -/
theorem orFault_map_eq_mapNext {α : Type} {f : State → State} {x x' : Except Fault α} {g : α → α}
    {go go' : α → Out} (hx : x' = x.map g) (hgo : ∀ a, go' (g a) = mapNext f (go a)) :
    orFault x' go' = mapNext f (orFault x go) := by
  subst hx
  cases x with
  | ok a => exact hgo a
  | error e => rfl

/-- The same, after an operation that gives no state back. -/
theorem orFault_eq_mapNext {α : Type} {f : State → State} {x : Except Fault α} {go go' : α → Out}
    (hgo : ∀ a, go' a = mapNext f (go a)) : orFault x go' = mapNext f (orFault x go) :=
  orFault_map_eq_mapNext (g := id) (by cases x <;> rfl) hgo

theorem IgnoresSession.needOperand {go : State → Out} (hgo : IgnoresSession go) (n : Len) :
    IgnoresSession (·.needOperand n go) := by
  intro s σ
  unfold State.needOperand
  split
  · rfl
  · exact hgo s σ

/-! ## The unit commands, from acceptance and after a primitive -/

theorem csVerifyStart_ignoresSession (n : Len) (d : List Byte) : IgnoresSession (csVerifyStart n d) :=
  IgnoresSession.needOperand
    (fun s σ => orFault_map_eq_mapNext (s.loadRxf_withSession σ n d) fun u =>
      orFault_map_eq_mapNext (u.verify_withSession σ n.toNat) fun _ => rfl)
    n

theorem encodeStart_ignoresSession (a : Byte) (n : Len) (d : List Byte) : IgnoresSession (encodeStart a n d) := by
  refine IgnoresSession.needOperand (fun s σ => orFault_map_eq_mapNext (s.encode_withSession σ d a) fun r => ?_) n
  cases r with
  | none => rfl
  | some u => exact orFault_eq_mapNext (x := u.memReadAll .txf 0 u.txfLen.toNat) fun _ => rfl

theorem decodeStart_ignoresSession (n : Len) (d : List Byte) (cap : Len) : IgnoresSession (decodeStart n d cap) := by
  refine IgnoresSession.needOperand (fun s σ => ?_) n
  split
  · rfl
  · exact orFault_map_eq_mapNext (s.loadRxf_withSession σ n d) fun u =>
      orFault_eq_mapNext (x := u.decode n.toNat cap) fun _ => rfl

theorem setDeadlineResume_ignoresSession (t : Time) (k : Point) : IgnoresSession (setDeadlineResume t k) := by
  intro s σ
  unfold setDeadlineResume
  split <;> rfl

theorem isElapsedResume_ignoresSession (k : Point) : IgnoresSession (isElapsedResume k) := by
  intro s σ
  unfold isElapsedResume
  split <;> rfl

theorem startOf_ignoresSession {i : Instr} (hi : unitCommand i = true) : IgnoresSession (startOf i) := by
  cases i
  case csCompute a b n d => exact IgnoresSession.needOperand (fun _ _ => rfl) n
  case csVerify n d => exact csVerifyStart_ignoresSession n d
  case encode a n d => exact encodeStart_ignoresSession a n d
  case decode n d cap => exact decodeStart_ignoresSession n d cap
  case setDeadline t => exact fun _ _ => rfl
  case isElapsed => exact fun _ _ => rfl
  case getOptBlock => exact fun _ _ => rfl
  all_goals cases hi

theorem resumeOf_ignoresSession {i : Instr} (hi : unitCommand i = true) (k : Point) :
    IgnoresSession (resumeOf i k) := by
  cases i
  case setDeadline t => exact setDeadlineResume_ignoresSession t k
  case isElapsed => exact isElapsedResume_ignoresSession k
  case csCompute | csVerify | encode | decode | getOptBlock => exact fun _ _ => rfl
  all_goals cases hi

/-- R222: a step of a unit command, from IDLE and at every position. -/
theorem exec_ignoresSession {i : Instr} (hi : unitCommand i = true) : IgnoresSession (exec i) := by
  intro s σ
  rcases hu : s.ustate with _ | ⟨j, k⟩
  · have hu' : (s.withSession σ).ustate = .idle := hu
    rw [exec_idle hu, exec_idle hu']
    exact startOf_ignoresSession hi (s.setRspPending false) σ
  · have hu' : (s.withSession σ).ustate = .busy j k := hu
    by_cases hj : i = j
    · subst hj
      rw [exec_busy hu, exec_busy hu']
      exact resumeOf_ignoresSession hi k s σ
    · rw [exec_portBusy hu hj, exec_portBusy hu' hj]
      rfl

end Sys2Proof.Machine
end

section
open Sys2Proof Sys2Proof.Machine

/-- Settles O24: each operation of a unit command ignores the Connection State. -/
theorem unitCommandsIgnoreTheSession : Obligations.UnitCommandsIgnoreTheSession := by
  unfold Obligations.UnitCommandsIgnoreTheSession
  intro i s ph tq rl c cs hi
  exact exec_ignoresSession hi s ⟨ph, tq, rl, c, cs⟩

/-- Settles O6: the level of the reset input has been read, and then the response, where one waits. -/
theorem theHostsTurn : Obligations.TheHostsTurn := by
  unfold Obligations.TheHostsTurn
  intro s hidle hrst
  rw [step_of_not_reset hrst]
  exact ⟨stepRunning_takes (s := s.setRst s.env.rst.tail) hidle,
    stepRunning_waits (s := s.setRst s.env.rst.tail) hidle⟩

end

section
/-! SUPPORT. What the counters read right after reset (spec/10_state.md R39). -/

namespace Sys2Proof.Machine

theorem Counters.get_reset (c : Counter) : Counters.get {} c = 0 := by
  cases c <;> rfl

end Sys2Proof.Machine
end

section
open Sys2Proof Sys2Proof.Machine

/-- Settles O9: the step with reset asserted ends in `State.resetFor`, whose registers are R39's values. -/
theorem resetGivesEveryRegisterItsValue : Obligations.ResetGivesEveryRegisterItsValue := by
  unfold Obligations.ResetGivesEveryRegisterItsValue
  intro s rest hrst
  refine ⟨State.resetFor s.cfg { s.env with rst := rest }, step_of_reset hrst, rfl, rfl, rfl, rfl,
    Counters.get_reset, rfl, rfl, ?working, ?lengths, rfl, rfl⟩
  case working => exact ⟨rfl, rfl, rfl, rfl, rfl, rfl⟩
  case lengths => exact ⟨rfl, rfl⟩

end
